-- ==== Sys2Proof/Word.lean ====
section
/-! DEFINITION. The word types: every device register is 32 bits (R8), a buffer cell 8 bits (R46). -/

namespace Sys2Proof

/-- A 32-bit device register word, or one half of a quadword (R8). -/
abbrev Word := BitVec 32

/-- One byte of a caller buffer (R46). -/
abbrev Byte := BitVec 8

end Sys2Proof
end

