-- ==== Sys2Proof/Syntax.lean ====
section
/-! DEFINITION. The operations of the host program (R34, R101, R102): one constructor of `Instr` per row of the
opcode table, and the operand types their argument records are made of. -/

namespace Sys2Proof

/-- The eight device registers, in the order of the spec's register numbers 0 to 7 (R36). -/
inductive Reg where
  | rxReady
  | rxStatus
  | rxUpper32
  | rxLower32deq
  | txStatus
  | txUpper32
  | txLower32send
  | txQueueenable
  deriving DecidableEq, Repr

/-- The word size `W` of a mask call, one of 32 and 64 (R170, R171). -/
inductive Precision where
  | w32
  | w64
  deriving DecidableEq, Repr, Inhabited

/-- A caller buffer as a call names it (R46): a host byte address and the number of bytes the caller owns there.
Its bytes stand in host memory from `base` on (log 12). -/
structure Buffer where
  base : Nat
  extent : Nat
  deriving DecidableEq, Repr, Inhabited

/-- One FIFO element (R40): the status word, the upper half and the lower half of one quadword. -/
structure Entry where
  st : Word
  up : Word
  lo : Word
  deriving DecidableEq, Repr, Inhabited

/-- An operation of the host program: a raw bus operation (format B, R101) or a procedure call with its
argument record (format C, R102). -/
inductive Instr where
  /-- `RD RX_READY` (R141). -/
  | rdRxReady
  /-- `RD RX_STATUS` (R142). -/
  | rdRxStatus
  /-- `RD RX_UPPER32` (R143). -/
  | rdRxUpper32
  /-- `RD RX_LOWER32DEQ` (R144). -/
  | rdRxLower32deq
  /-- `RD TX_STATUS`, wrong direction (R149). -/
  | rdTxStatus
  /-- `RD TX_UPPER32`, wrong direction (R149). -/
  | rdTxUpper32
  /-- `RD TX_LOWER32SEND`, wrong direction (R149). -/
  | rdTxLower32send
  /-- `RD TX_QUEUEENABLE`, wrong direction (R149). -/
  | rdTxQueueenable
  /-- `WR RX_READY, v`, wrong direction (R149). -/
  | wrRxReady (v : Word)
  /-- `WR RX_STATUS, v`, wrong direction (R149). -/
  | wrRxStatus (v : Word)
  /-- `WR RX_UPPER32, v`, wrong direction (R149). -/
  | wrRxUpper32 (v : Word)
  /-- `WR RX_LOWER32DEQ, v`, wrong direction (R149). -/
  | wrRxLower32deq (v : Word)
  /-- `WR TX_STATUS, v` (R145). -/
  | wrTxStatus (v : Word)
  /-- `WR TX_UPPER32, v` (R146). -/
  | wrTxUpper32 (v : Word)
  /-- `WR TX_LOWER32SEND, v` (R147). -/
  | wrTxLower32send (v : Word)
  /-- `WR TX_QUEUEENABLE, v` (R148). -/
  | wrTxQueueenable (v : Word)
  /-- `CALL mask` (R170). -/
  | callMask (w : Precision) (width : Nat)
  /-- `CALL mask_enable_bits` (R171). -/
  | callMaskEnableBits (w : Precision) (high low : Nat)
  /-- `CALL wait_for_tlp` (R180). -/
  | callWaitForTlp (buffer : Buffer) (cap deadline : Nat)
  /-- `CALL drain_pcie_core` (R195). -/
  | callDrainPcieCore
  /-- `CALL send_tlp` (R222); `data` may be absent, and `alignment` is the numeric code of the mode (R224, D27). -/
  | callSendTlp (header : Buffer) (headerLen : Nat) (data : Option Buffer) (dataLen alignment : Nat)
  /-- `CALL send_tlp_unaligned` (R237). -/
  | callSendTlpUnaligned (tlp : Buffer) (tlpLen : Nat)
  /-- `CALL close_connections` (R270). -/
  | callCloseConnections
  deriving DecidableEq, Repr

end Sys2Proof
end

