-- ==== Sys2Proof/Machine/Bits.lean ====
section
/-! DEFINITION. Bit-field, mask and byte-order helpers (R10, R72, R170, R171). -/

namespace Sys2Proof.Machine

/-- The word size `W` in bits (R170). -/
def precisionBits : Precision → Nat
  | .w32 => 32
  | .w64 => 64

/-- The low `width` bits set, in `W` bits (R170): the arithmetic of the rule, no shift by the full width. -/
def maskValue (W width : Nat) : BitVec W := BitVec.ofNat W (2 ^ width - 1)

/-- Bits `low` to `high` set, inclusive, in `W` bits (R171). -/
def maskEnableValue (W high low : Nat) : BitVec W := BitVec.ofNat W ((2 ^ (high + 1) - 1) - (2 ^ low - 1))

/-- Bit `i` of a word, as a flag: `v[i]` (R10). -/
def bitAt (v : Word) (i : Nat) : Bool := v.getLsbD i

/-- A flag as a 32-bit word: `zext_32` of one bit (R10). -/
def flagWord (b : Bool) : Word := if b then 1 else 0

/-- Byte `i` of a word, `v[8i+7 : 8i]` (R72). -/
def byteOf (v : Word) (i : Nat) : Byte := v.extractLsb' (8 * i) 8

/-- The word of four bytes, the first the least significant: little-endian (R72, R73). -/
def wordOfBytes (b0 b1 b2 b3 : Byte) : Word := b3 ++ b2 ++ b1 ++ b0

/-- A quadword from its halves, `{upper, lower}` (R10, R108). -/
def quadOf (upper lower : Word) : BitVec 64 := upper ++ lower

/-- The upper half of a quadword, `q[63:32]` (R10). -/
def hi32 (q : BitVec 64) : Word := q.extractLsb' 32 32

/-- The lower half of a quadword, `q[31:0]` (R10). -/
def lo32 (q : BitVec 64) : Word := q.extractLsb' 0 32

end Sys2Proof.Machine
end

