-- ==== Sys2Proof/Config.lean ====
section
/-! DEFINITION. The implementation parameters of R7, when they are well-formed (R9), and the free values: everything
the spec leaves to a draw. A free value is an opaque constant, so no proof can learn what it is. -/

namespace Sys2Proof

/-- The agents that take steps (R4): the framer, the receive link and the transmit link. -/
inductive Agent where
  | framer
  | rxLink
  | txLink
  deriving DecidableEq, Repr, Inhabited

/-- The OPEN parameters of R7. A run's parameters stand in its state and no step changes them. -/
structure Params where
  /-- `PKT_BASE`, the physical base of the packet register window. -/
  pktBase : Nat
  /-- `REG_OFF[r]`, the byte offset of each register, by register number. -/
  regOff : Vector Nat 8
  /-- `SOP_POS`, the bit of startofpacket in a status word. -/
  sopPos : Nat
  /-- `EOP_POS`, the bit of endofpacket. -/
  eopPos : Nat
  /-- `BE_LO`, the lowest bit of byteenable. -/
  beLo : Nat
  /-- `BE_W`, the width of byteenable. -/
  beW : Nat
  /-- `TX_BE`, the byteenable the framer transmits. -/
  txBe : Nat
  /-- `RX_DEPTH`, the receive FIFO's capacity. -/
  rxDepth : Nat
  /-- `TX_DEPTH`, the transmit FIFO's capacity. -/
  txDepth : Nat
  /-- `DRAIN_SPIN`, the idle iterations after each discard. -/
  drainSpin : Nat
  /-- `TIMEOUT_CODE`. -/
  timeoutCode : Int
  /-- `OVERFLOW_CODE`. -/
  overflowCode : Int
  /-- `ALIGNED_CODE`. -/
  alignedCode : Nat
  /-- `UNALIGNED_CODE`. -/
  unalignedCode : Nat
  deriving DecidableEq, Repr, Inhabited

/-- The status layout is well-formed (R9): the two framing bits differ, byteenable ends within the word, and
neither framing bit lies in it. -/
abbrev Params.layoutWf (p : Params) : Prop :=
  p.sopPos ≠ p.eopPos ∧ p.beLo + p.beW ≤ 32 ∧
    ¬ (p.beLo ≤ p.sopPos ∧ p.sopPos < p.beLo + p.beW) ∧ ¬ (p.beLo ≤ p.eopPos ∧ p.eopPos < p.beLo + p.beW)

/-- Every parameter lies in the range R7 gives it, register offsets are distinct multiples of 4 (R77, D3) and the
two alignment codes differ (DEDUCED from "enumeration of two values", log 6). -/
abbrev Params.rangesWf (p : Params) : Prop :=
  p.sopPos < 32 ∧ p.eopPos < 32 ∧ p.beW ≤ 30 ∧ p.txBe < 2 ^ p.beW ∧ 1 ≤ p.rxDepth ∧ 1 ≤ p.txDepth ∧
    p.regOff.toList.Nodup ∧ (∀ o ∈ p.regOff.toList, o % 4 = 0) ∧ p.alignedCode ≠ p.unalignedCode

/-- A configuration the model accepts at launch (R9; R7's ranges, log 6). -/
abbrev Params.wf (p : Params) : Prop := p.rangesWf ∧ p.layoutWf

namespace Config

/-- The example layout EL that the spec's test vectors use (D39). It stands here for tests, and as the value
`Config.params` takes where `Config.implParams` is not well-formed; no rule of the machine reads it. -/
def exampleParams : Params where
  pktBase := 0
  regOff := #v[0, 4, 8, 12, 16, 20, 24, 28]
  sopPos := 0
  eopPos := 1
  beLo := 2
  beW := 8
  txBe := 0xFF
  rxDepth := 4
  txDepth := 4
  drainSpin := 0
  timeoutCode := -1
  overflowCode := -2
  alignedCode := 0
  unalignedCode := 1

/-- The implementation's parameters: free, since no source gives one (R7). -/
opaque implParams : Params

/-- The parameters State.reset is launched with (log 5): free among the well-formed ones, since every well-formed
configuration is the value of some `implParams`. -/
def params : Params := if implParams.wf then implParams else exampleParams

/-- `RXF0` at reset: any list (R40, D33); State.reset keeps at most `RX_DEPTH` entries of it (log 14). -/
opaque rxf0 : List Entry

/-- `TXF0` at reset: any list (R41, D33); State.reset keeps at most `TX_DEPTH` entries of it (log 14). -/
opaque txf0 : List Entry

/-- `QE` at reset: a draw, 0 or 1 (R43, D33; log 15). -/
opaque resetQe : BitVec 1

/-- The agent that takes the next step, where no turn is listed (R12, R294 (e); log 4). -/
opaque freeTurn : Nat → Agent

/-- How far the counter has moved since the last read, where no increment is listed (R296; log 17). -/
opaque freeTick : Nat → Nat

/-- The answer at a counter value equal to the deadline, where none is listed (R192, D19; log 18). -/
opaque freeTie : Nat → Bool

/-- A drawn byte, where none is listed (`Draw8` of R75, D16; log 19). -/
opaque freeByte : Nat → Byte

/-- An entry of an endless receive stream (R47, R150: "any triple of 32-bit words"; log 16). -/
opaque freeEntry : Nat → Entry

end Config

end Sys2Proof
end

