-- ==== Sys2Proof/WellFormed.lean ====
section
/-! DEFINITION. Which operations are well-formed as syntax. -/

namespace Sys2Proof

/-- The one condition an operation's record must meet to be an operation at all: the data buffer of `send_tlp`
"may be absent when `data_len = 0`" (R222), so only then. Every other operand condition of the spec is checked by
the operation itself, which faults or refuses by name (R170, R171, R181, R223, R237). -/
def Instr.wf : Instr → Bool
  | .callSendTlp _ _ none dataLen _ => dataLen == 0
  | _ => true

end Sys2Proof
end

