-- ==== Sys2Proof/Decode.lean ====
section
/-! DEFINITION. Decoding of host-program operations (R100 to R104, R111) and the encoder. A format B operation is a
40-bit word; a format C operation is its 8-bit code and a record of named values, which the spec does not pack into
bits (R102), so the record is data here too. -/

namespace Sys2Proof

/-- The argument record of a format C operation, one shape per procedure (R102). -/
inductive ArgRecord where
  /-- `drain_pcie_core` and `close_connections` take no argument. -/
  | none
  | mask (w : Precision) (width : Nat)
  | maskEnableBits (w : Precision) (high low : Nat)
  | waitForTlp (buffer : Buffer) (cap deadline : Nat)
  | sendTlp (header : Buffer) (headerLen : Nat) (data : Option Buffer) (dataLen alignment : Nat)
  | sendTlpUnaligned (tlp : Buffer) (tlpLen : Nat)
  deriving DecidableEq, Repr

/-- One undecoded operation of a host program: a 40-bit word, or an 8-bit code with a record (R111). -/
inductive RawOp where
  | word (w : BitVec 40)
  | call (op : BitVec 8) (args : ArgRecord)
  deriving DecidableEq, Repr

/-- Why an operation does not decode. Each is refused `RF_UNKNOWN_OP` when the framer starts it (R104, R291). -/
inductive DecodeError where
  /-- `0x17` to `0x1F`: no procedure has this selector (R104). -/
  | reservedSelector
  /-- `0x20` to `0xFF`: the class is reserved (R104). -/
  | reservedClass
  /-- A format B read with `v ≠ 0` (R104). -/
  | readWithValue
  /-- A bus code with a record, or a call code with a bus value: neither format (R111; log 23). -/
  | wrongFormat
  /-- A call code with the record of another procedure (R102; log 23). -/
  | wrongRecord
  /-- `send_tlp` with no data buffer and `data_len ≠ 0` (R222; log 22). -/
  | absentData
  deriving DecidableEq, Repr

/-- The spec's register numbers (R36, R101). -/
def Reg.number : Reg → Nat
  | .rxReady => 0
  | .rxStatus => 1
  | .rxUpper32 => 2
  | .rxLower32deq => 3
  | .txStatus => 4
  | .txUpper32 => 5
  | .txLower32send => 6
  | .txQueueenable => 7

/-- The register an `rrr` field names (R101). -/
def Reg.ofNumber (n : BitVec 3) : Reg :=
  match n.toNat with
  | 0 => .rxReady
  | 1 => .rxStatus
  | 2 => .rxUpper32
  | 3 => .rxLower32deq
  | 4 => .txStatus
  | 5 => .txUpper32
  | 6 => .txLower32send
  | _ => .txQueueenable

/-- The bus read of a register, wrong directions included (R101, R104). -/
def Instr.busRead : Reg → Instr
  | .rxReady => .rdRxReady
  | .rxStatus => .rdRxStatus
  | .rxUpper32 => .rdRxUpper32
  | .rxLower32deq => .rdRxLower32deq
  | .txStatus => .rdTxStatus
  | .txUpper32 => .rdTxUpper32
  | .txLower32send => .rdTxLower32send
  | .txQueueenable => .rdTxQueueenable

/-- The bus write of a register, wrong directions included (R101, R104). -/
def Instr.busWrite (v : Word) : Reg → Instr
  | .rxReady => .wrRxReady v
  | .rxStatus => .wrRxStatus v
  | .rxUpper32 => .wrRxUpper32 v
  | .rxLower32deq => .wrRxLower32deq v
  | .txStatus => .wrTxStatus v
  | .txUpper32 => .wrTxUpper32 v
  | .txLower32send => .wrTxLower32send v
  | .txQueueenable => .wrTxQueueenable v

/-- The code of a bus operation, `0000 d rrr` (R101): `d` is 1 for a write. -/
def busCode (d : BitVec 1) (r : Reg) : BitVec 8 :=
  0#4 ++ d ++ BitVec.ofNat 3 r.number

/-- The call codes of R102. -/
def codeMask : BitVec 8 := 0x10
def codeMaskEnableBits : BitVec 8 := 0x11
def codeWaitForTlp : BitVec 8 := 0x12
def codeDrainPcieCore : BitVec 8 := 0x13
def codeSendTlp : BitVec 8 := 0x14
def codeSendTlpUnaligned : BitVec 8 := 0x15
def codeCloseConnections : BitVec 8 := 0x16

/-- A code that opens no operation of the format it stands in: reserved (R104), or of the other format (R111). -/
def badCode (op : BitVec 8) : DecodeError :=
  if op.toNat < 0x17 then .wrongFormat else if op.toNat < 0x20 then .reservedSelector else .reservedClass

/-- Format B (R101): class `0000`, direction `op[3]`, register `op[2:0]`, value `w[31:0]`. -/
def decodeWord (w : BitVec 40) : Except DecodeError Instr :=
  let op : BitVec 8 := w.extractLsb' 32 8
  let v : Word := w.extractLsb' 0 32
  let r := Reg.ofNumber (op.extractLsb' 0 3)
  if op.extractLsb' 4 4 ≠ 0#4 then .error (badCode op)
  else if op.extractLsb' 3 1 = 1#1 then .ok (.busWrite v r)
  else if v = 0#32 then .ok (.busRead r)
  else .error .readWithValue

/-- The operation a call code and a record make, where the record is that procedure's (R102). -/
def decodeCall (op : BitVec 8) (args : ArgRecord) : Except DecodeError Instr :=
  match op.toNat, args with
  | 0x10, .mask w width => .ok (.callMask w width)
  | 0x11, .maskEnableBits w high low => .ok (.callMaskEnableBits w high low)
  | 0x12, .waitForTlp buffer cap deadline => .ok (.callWaitForTlp buffer cap deadline)
  | 0x13, .none => .ok .callDrainPcieCore
  | 0x14, .sendTlp header headerLen data dataLen alignment =>
    if (Instr.callSendTlp header headerLen data dataLen alignment).wf then
      .ok (.callSendTlp header headerLen data dataLen alignment)
    else .error .absentData
  | 0x15, .sendTlpUnaligned tlp tlpLen => .ok (.callSendTlpUnaligned tlp tlpLen)
  | 0x16, .none => .ok .callCloseConnections
  | n, _ => if 0x10 ≤ n ∧ n < 0x17 then .error .wrongRecord else .error (badCode op)

/-- Decoding, total on every raw operation (R104, R111). -/
def decode : RawOp → Except DecodeError Instr
  | .word w => decodeWord w
  | .call op args => decodeCall op args

/-- A 40-bit format B word (R101). -/
def encodeBus (d : BitVec 1) (r : Reg) (v : Word) : RawOp := .word (busCode d r ++ v)

/-- The encoder: the raw operation that stands for an instruction (R101, R102). -/
def encode : Instr → RawOp
  | .rdRxReady => encodeBus 0 .rxReady 0
  | .rdRxStatus => encodeBus 0 .rxStatus 0
  | .rdRxUpper32 => encodeBus 0 .rxUpper32 0
  | .rdRxLower32deq => encodeBus 0 .rxLower32deq 0
  | .rdTxStatus => encodeBus 0 .txStatus 0
  | .rdTxUpper32 => encodeBus 0 .txUpper32 0
  | .rdTxLower32send => encodeBus 0 .txLower32send 0
  | .rdTxQueueenable => encodeBus 0 .txQueueenable 0
  | .wrRxReady v => encodeBus 1 .rxReady v
  | .wrRxStatus v => encodeBus 1 .rxStatus v
  | .wrRxUpper32 v => encodeBus 1 .rxUpper32 v
  | .wrRxLower32deq v => encodeBus 1 .rxLower32deq v
  | .wrTxStatus v => encodeBus 1 .txStatus v
  | .wrTxUpper32 v => encodeBus 1 .txUpper32 v
  | .wrTxLower32send v => encodeBus 1 .txLower32send v
  | .wrTxQueueenable v => encodeBus 1 .txQueueenable v
  | .callMask w width => .call codeMask (.mask w width)
  | .callMaskEnableBits w high low => .call codeMaskEnableBits (.maskEnableBits w high low)
  | .callWaitForTlp buffer cap deadline => .call codeWaitForTlp (.waitForTlp buffer cap deadline)
  | .callDrainPcieCore => .call codeDrainPcieCore .none
  | .callSendTlp header headerLen data dataLen alignment =>
    .call codeSendTlp (.sendTlp header headerLen data dataLen alignment)
  | .callSendTlpUnaligned tlp tlpLen => .call codeSendTlpUnaligned (.sendTlpUnaligned tlp tlpLen)
  | .callCloseConnections => .call codeCloseConnections .none

/-- The code a raw operation opens with (R100). -/
def RawOp.code : RawOp → BitVec 8
  | .word w => w.extractLsb' 32 8
  | .call op _ => op

/-- The record of a call code with every named value zero: an empty buffer at address 0, no data buffer, the
first of the two precisions (log 24). -/
def zeroRecord (op : BitVec 8) : ArgRecord :=
  match op.toNat with
  | 0x10 => .mask .w32 0
  | 0x11 => .maskEnableBits .w32 0 0
  | 0x12 => .waitForTlp ⟨0, 0⟩ 0 0
  | 0x14 => .sendTlp ⟨0, 0⟩ 0 none 0 0
  | 0x15 => .sendTlpUnaligned ⟨0, 0⟩ 0
  | _ => .none

/-- The raw operation whose bits are `w`, numbered as the opcode table numbers them: a 40-bit word, or, for the
8-bit rows, the code with all that follows it zero. -/
def rawOfTable (nbits w : Nat) : RawOp :=
  if nbits = 8 then
    if w / 16 % 16 = 0 then .word (BitVec.ofNat 8 w ++ 0#32)
    else .call (BitVec.ofNat 8 w) (zeroRecord (BitVec.ofNat 8 w))
  else .word (BitVec.ofNat 40 w)

/-- The instruction the decoder reads from an opcode-table word. -/
def decodeTableWord (nbits w : Nat) : Option Instr :=
  match decode (rawOfTable nbits w) with
  | .ok i => some i
  | .error _ => none

end Sys2Proof
end

