-- ==== Sys2Proof/Machine/Memory.lean ====
section
/-! DEFINITION. Host memory, where the caller buffers' bytes stand (R45 (b), R46): a list of address and byte pairs in
one canonical form. -/

namespace Sys2Proof.Machine

/-- Host memory: cells at strictly rising addresses, none of them holding what an unlisted address reads as. -/
abbrev Memory := List Host.Cell

/-- What an unlisted address reads as (DESIGN CHOICE, unsafe: log 13). The spec gives every byte a caller owns a
value, a launch parameter (R46), and names none. -/
def Memory.unlisted : Byte := 0

/-- The canonical form: addresses strictly rising, no cell equal to what an unlisted address reads as. -/
abbrev Memory.wf (m : Memory) : Prop :=
  m.Pairwise (fun c d => c.1 < d.1) ∧ ∀ c ∈ m, c.2 ≠ Memory.unlisted

/-- The byte at an address. -/
def Memory.read : Memory → Nat → Byte
  | [], _ => Memory.unlisted
  | (a, b) :: m, x => if x = a then b else Memory.read m x

/-- One byte written, the form kept: writing what an unlisted address reads as removes the cell. -/
def Memory.write : Memory → Nat → Byte → Memory
  | [], x, v => if v = Memory.unlisted then [] else [(x, v)]
  | (a, b) :: m, x, v =>
    if x < a then (if v = Memory.unlisted then (a, b) :: m else (x, v) :: (a, b) :: m)
    else if x = a then (if v = Memory.unlisted then m else (x, v) :: m)
    else (a, b) :: Memory.write m x v

/-- Bytes written one after the other from an address up. -/
def Memory.writeBytes : Memory → Nat → List Byte → Memory
  | m, _, [] => m
  | m, x, v :: vs => Memory.writeBytes (Memory.write m x v) (x + 1) vs

/-- The memory that holds the given cells, later ones over earlier ones. -/
def Memory.ofCells (cells : List Host.Cell) : Memory :=
  cells.foldl (fun m c => Memory.write m c.1 c.2) []

end Sys2Proof.Machine
end

