-- ==== Sys2Proof/Machine/State.lean ====
section
/-! DEFINITION. The state of the machine (10_state.md), the reasons the host's step can stop, and the state after
reset. -/

namespace Sys2Proof.Machine

/-- Why a step answers `fault` to the host. These are the MODEL'S OWN stops, not the spec's faults: a fault of R282 is
TAKEN, as a next state with the sticky mark set and the framer in `faulted` (R281; log 7). -/
inductive Fault where
  /-- Raised by an operation's meaning, or by the framer's step, when `fsm` names a state that is no state of the
  current operation, or no operation stands at `hp` in mid-call. Safe: no launch leads there, and the rules give
  such a state no step (log 8). -/
  | controlMismatch
  /-- Raised by a meaning that must read a working register which is unwritten. Safe: the spec says such a rule
  "faults or is never reached", and no launch leads there (10_state.md, R31; log 8). -/
  | unwrittenRegister
  deriving DecidableEq, Repr

/-- Why a step answers `refused` to the host. A refusal of R291 is TAKEN, as a next state with the sticky mark set
and the framer in `refused` (R290; log 7). -/
inductive Refusal where
  /-- Raised by an arm of `exec` whose instruction has no meaning yet. Safe: the machine stops. -/
  | notModelled (mnemonic : String)
  deriving DecidableEq, Repr

/-- The framer's control position (R32): `IDLE`, `FAULTED`, `REFUSED` and the states the family files name. -/
inductive Fsm where
  | idle
  | faulted
  | refused
  /-- `B_EXEC`, a raw bus operation (R140). -/
  | bExec
  /-- `M_EXEC` (R170). -/
  | mExec
  /-- `MB_EXEC` (R171). -/
  | mbExec
  /-- `W_INIT` (R182). -/
  | wInit
  /-- `W_DL` (R183). -/
  | wDl
  /-- `W_RDY` (R184). -/
  | wRdy
  /-- `W_ST` (R185). -/
  | wSt
  /-- `W_UP` (R186). -/
  | wUp
  /-- `W_LO` (R187). -/
  | wLo
  /-- `W_APP` (R188). -/
  | wApp
  /-- `W_OVF` (R189). -/
  | wOvf
  /-- `W_DL2` (R190). -/
  | wDl2
  /-- `W_EOP` (R191). -/
  | wEop
  /-- `D_RDY` (R196). -/
  | dRdy
  /-- `D_ST` (R197). -/
  | dSt
  /-- `D_UP` (R197). -/
  | dUp
  /-- `D_LO` (R197). -/
  | dLo
  /-- `D_SPIN` (R198). -/
  | dSpin
  /-- `Q_ST` (R220). -/
  | qSt
  /-- `Q_UP` (R220). -/
  | qUp
  /-- `Q_LO` (R220). -/
  | qLo
  /-- `S_QW0` (R226). -/
  | sQw0
  /-- `S_HOLD` (R227). -/
  | sHold
  /-- `S_BR` (R228). -/
  | sBr
  /-- `S_M` (R229). -/
  | sM
  /-- `S_UL` (R230). -/
  | sUl
  /-- `S_G` (R231). -/
  | sG
  /-- `S_AL` (R232). -/
  | sAl
  /-- `S_REL` (R233). -/
  | sRel
  /-- `U_INIT` (R238). -/
  | uInit
  /-- `U_LOOP` (R239). -/
  | uLoop
  /-- `U_HOOK` (R240). -/
  | uHook
  /-- `CC_EXEC` (R270). -/
  | ccExec
  deriving DecidableEq, Repr

/-- The result of an operation (R292): a sum, so that no sentinel can be taken for a byte count (D26). -/
inductive Result where
  /-- A raw bus operation: the word read, or 0 for a write (R140). -/
  | word (v : Word)
  /-- `mask` and `mask_enable_bits` with `W` = 32. -/
  | mask32 (v : BitVec 32)
  /-- `mask` and `mask_enable_bits` with `W` = 64. -/
  | mask64 (v : BitVec 64)
  /-- `BYTES(n)` of `wait_for_tlp`. -/
  | bytes (n : Nat)
  | timeout
  | overflow
  /-- The `0` of `send_tlp` and `send_tlp_unaligned`. -/
  | success
  /-- `UNIT` of `drain_pcie_core` and `close_connections`. -/
  | unit
  deriving DecidableEq, Repr

/-- The seven fault codes of R282, each with what its row says is recorded. -/
inductive FaultCode where
  /-- `F_ILLEGAL_ACCESS`; records the op code. -/
  | illegalAccess (op : BitVec 8)
  /-- `F_RX_EMPTY`; records the register. -/
  | rxEmpty (r : Reg)
  /-- `F_TX_LATCH`; records which latches are unwritten (log 9). -/
  | txLatch (txs txu : Bool)
  /-- `F_TX_FULL`. -/
  | txFull
  /-- `F_QE_VALUE`; records the value. -/
  | qeValue (v : Word)
  /-- `F_BUF_OOB`; records the buffer and the byte offset (log 9). -/
  | bufOob (b : Buffer) (offset : Nat)
  /-- `F_CONTRACT`; records the arguments: the word size, then the others in their order. -/
  | contract (w : Precision) (args : List Nat)
  deriving DecidableEq, Repr

/-- The refusal reasons of R291. -/
inductive RefuseReason where
  /-- `RF_UNKNOWN_OP`. -/
  | unknownOp
  /-- `RF_HDR_LEN`. -/
  | hdrLen
  /-- `RF_DATA_LEN`. -/
  | dataLen
  /-- `RF_ALIGN_MODE`. -/
  | alignMode
  /-- `RF_BUF_ALIGN`. -/
  | bufAlign
  /-- `RF_LEN_RANGE`. -/
  | lenRange
  /-- `RF_CONFIG`. -/
  | config
  deriving DecidableEq, Repr

/-- The events of a trace (R48). -/
inductive Event where
  /-- `BusRd(r, v)`. -/
  | busRd (r : Reg) (v : Word)
  /-- `BusWr(r, v)`. -/
  | busWr (r : Reg) (v : Word)
  /-- `CntRd(c)`. -/
  | cntRd (c : Nat)
  /-- `Diag(OVERFLOW)`. -/
  | diagOverflow
  /-- `HookTs`. -/
  | hookTs
  /-- `LinkRx(e)`. -/
  | linkRx (e : Entry)
  /-- `LinkTx(e)`. -/
  | linkTx (e : Entry)
  /-- `Return(op, v)`. -/
  | ret (op : BitVec 8) (v : Result)
  deriving DecidableEq, Repr

/-- The framer's working registers (R31). `none` is the spec's "unwritten". The call's arguments stand in the host
program at `hp` (log 2). -/
structure Work where
  cursor : Option Nat := none
  s : Option Word := none
  u : Option Word := none
  l : Option Word := none
  bi : Option Nat := none
  q : Option Nat := none
  n : Option Nat := none
  k : Option Nat := none
  qs : Option (BitVec 1) := none
  qe : Option (BitVec 1) := none
  qu : Option Word := none
  ql : Option Word := none
  /-- `K`, the continuation of a quadword emission (R220). -/
  kont : Option Fsm := none
  /-- The value the last operation returned (R33, R271; log 20). -/
  ret : Option Result := none
  deriving DecidableEq, Repr

/-- Where a run's draws come from. THE MODEL'S OWN STATE, not the spec's: each list gives the coming draws of one
kind, and past its end the draw is a free value of Config, indexed by the number of draws made (log 4, 17 to 19). -/
structure Env where
  /-- The agents that take the coming steps. -/
  turns : List Agent := []
  /-- How far the counter moves up to each coming read. -/
  ticks : List Nat := []
  /-- Whether the deadline is past at each coming tie. -/
  ties : List Bool := []
  /-- The coming drawn bytes. -/
  bytes : List Byte := []
  /-- The number of draws made. -/
  draws : Nat := 0
  deriving DecidableEq, Repr

/-- The machine's state. -/
structure State where
  /-- The implementation parameters (R7), fixed for the run. -/
  cfg : Params
  /-- The run is a loopback run (R152), fixed for the run. -/
  loopback : Bool
  /-- The host program (R34), fixed for the run. -/
  program : List RawOp
  /-- The index of the current operation (R32). -/
  hp : Nat
  /-- The control position (R32). -/
  fsm : Fsm
  /-- The working registers (R31). -/
  work : Work
  /-- `RXF`, head first (R40). -/
  rxf : List Entry
  /-- `TXF`, head first (R41). -/
  txf : List Entry
  /-- The latch `TXS`; `none` is unwritten (R42). -/
  txs : Option Word
  /-- The latch `TXU`; `none` is unwritten (R42). -/
  txu : Option Word
  /-- The queue gate `QE` (R43). -/
  qe : BitVec 1
  /-- Host memory, where the caller buffers stand (R46). -/
  mem : Memory
  /-- The entries of `rx_stream` that are listed (R47). -/
  rxStream : List Entry
  /-- After the listed entries `rx_stream` goes on for ever, with free entries (R47: "possibly infinite"; log 16). -/
  rxEndless : Bool
  /-- `cnt_last`; `none` is unwritten (R47). -/
  cntLast : Option Nat
  /-- The events so far, oldest first (R48). -/
  trace : List Event
  /-- The sticky fault mark (R49). -/
  fault : Option FaultCode
  /-- The sticky refusal mark (R49). -/
  refused : Option RefuseReason
  /-- Where draws come from (the model's own). -/
  env : Env
  deriving DecidableEq, Repr

/-- The launch state of a run with no program loaded (R320), its open launch parameters free values (log 5, 14 to 16). -/
def State.reset : State where
  cfg := Config.params
  loopback := false
  program := []
  hp := 0
  fsm := .idle
  work := {}
  rxf := Config.rxf0.take Config.params.rxDepth
  txf := Config.txf0.take Config.params.txDepth
  txs := none
  txu := none
  qe := Config.resetQe
  mem := []
  rxStream := []
  rxEndless := true
  cntLast := none
  trace := []
  fault := none
  refused := none
  env := {}

end Sys2Proof.Machine
end

