-- ==== Sys2Proof/Machine/Flags.lean ====
section
/-! DEFINITION. The flag-like bits (R35): READY, and the fields of a status word (R105 to R107). The block has no
condition codes, so no operation computes a flag beyond these. -/

namespace Sys2Proof.Machine

/-- The word `RX_READY` reads: bit 0 set when RXF holds an entry, bits 31:1 zero (R37). -/
def readyWord (rxf : List Entry) : Word := flagWord (!rxf.isEmpty)

/-- A status word from its fields; every padding bit is 0 (R106). -/
def pack (p : Params) (sop eop : BitVec 1) (be : Nat) : Word :=
  (sop.setWidth 32 <<< p.sopPos) ||| (eop.setWidth 32 <<< p.eopPos) ||| (BitVec.ofNat 32 be <<< p.beLo)

/-- startofpacket of a status word (R107). -/
def sopOf (p : Params) (st : Word) : Bool := bitAt st p.sopPos

/-- endofpacket of a status word (R107). -/
def eopOf (p : Params) (st : Word) : Bool := bitAt st p.eopPos

/-- byteenable of a status word (R107). No rule of the framer reads it (D6). -/
def beOf (p : Params) (st : Word) : Word :=
  if p.beW = 0 then 0 else (st &&& maskEnableValue 32 (p.beLo + p.beW - 1) p.beLo) >>> p.beLo

/-- A flag as a one-bit value. -/
def bit1 (b : Bool) : BitVec 1 := if b then 1 else 0

/-- The status word of a transmitted quadword: byteenable is always `TX_BE` (R221). -/
def txStatusWord (p : Params) (sop eop : BitVec 1) : Word := pack p sop eop p.txBe

end Sys2Proof.Machine
end

