-- ==== Sys2Proof/Machine/Ops.lean ====
section
/-! DEFINITION. The shared operations over the state: events, the taking of a fault and of a refusal, the return of a
call, draws, the counter, the bus operations and the access to working registers. -/

namespace Sys2Proof.Machine

/-- What an operation's meaning answers. -/
abbrev StepOutcome := Host.Outcome State Fault Refusal

/-! ### Control -/

/-- An event appended to the trace: `Emit` (R48). -/
def State.emit (e : Event) (s : State) : State := { s with trace := s.trace ++ [e] }

/-- `goto` another named state (R12). -/
def State.goto (f : Fsm) (s : State) : State := { s with fsm := f }

/-- TAKING A FAULT (R281): the mark is set and the framer is `FAULTED`; nothing else of the state changes, so the
callers give it the state before the faulting step. There is no return from a fault (R295). -/
def State.raise (c : FaultCode) (s : State) : State := { s with fault := some c, fsm := .faulted }

/-- Taking a refusal (R290): the mark is set and the framer is `REFUSED`, before any effect of the operation. -/
def State.refuse (r : RefuseReason) (s : State) : State := { s with refused := some r, fsm := .refused }

/-- `return v` of the operation with code `op` (R33): the result, the event, the framer `IDLE`, the next operation
current. The other working registers are unwritten again (R274; log 20). -/
def State.finish (op : BitVec 8) (v : Result) (s : State) : State :=
  { s with hp := s.hp + 1, fsm := .idle, work := { ret := some v }, trace := s.trace ++ [.ret op v] }

/-- The step that starts an operation executes its entry state (R33, R140; log 3): the framer is `IDLE`, or already
stands in the entry state. Any other control position is none of a one-state operation. -/
def atEntry (entry : Fsm) (s : State) (t : State) : StepOutcome :=
  if s.fsm = .idle ∨ s.fsm = entry then .next t else .fault .controlMismatch

/-- A working register is read: its value, or the model's own stop where it is unwritten (log 8). -/
def readWork {α : Type} (o : Option α) (f : α → StepOutcome) : StepOutcome :=
  match o with
  | some a => f a
  | none => .fault .unwrittenRegister

/-- The reason of the first refusal check that fails, in the order the call's rule lists them (R294 (c)). -/
def firstFailing : List (Bool × RefuseReason) → Option RefuseReason
  | [] => none
  | (ok, r) :: rest => if ok then firstFailing rest else some r

/-! ### Draws -/

/-- The agent that takes the next step (R12, R294 (e); log 4). -/
def State.nextTurn (s : State) : Agent × State :=
  (s.env.turns.headD (Config.freeTurn s.env.draws),
    { s with env := { s.env with turns := s.env.turns.tail, draws := s.env.draws + 1 } })

/-- How far the counter moved since it was last read (log 17). -/
def State.drawTick (s : State) : Nat × State :=
  (s.env.ticks.headD (Config.freeTick s.env.draws),
    { s with env := { s.env with ticks := s.env.ticks.tail, draws := s.env.draws + 1 } })

/-- Whether a counter value equal to the deadline is past it (R192; log 18). -/
def State.drawTie (s : State) : Bool × State :=
  (s.env.ties.headD (Config.freeTie s.env.draws),
    { s with env := { s.env with ties := s.env.ties.tail, draws := s.env.draws + 1 } })

/-- `Draw8()`, an unconstrained byte (R75; log 19). -/
def State.drawByte (s : State) : Byte × State :=
  (s.env.bytes.headD (Config.freeByte s.env.draws),
    { s with env := { s.env with bytes := s.env.bytes.tail, draws := s.env.draws + 1 } })

/-- The entry an endless stream delivers next (R150: "any triple of 32-bit words"; log 16). -/
def State.drawEntry (s : State) : Entry × State :=
  (Config.freeEntry s.env.draws, { s with env := { s.env with draws := s.env.draws + 1 } })

/-- `ReadCounter()` (R296): any natural on the first read, later one at least the last; it becomes `cnt_last`, and
the read is an event. -/
def State.readCounter (s : State) : Nat × State :=
  let c := s.cntLast.getD 0 + s.drawTick.1
  (c, ({ s.drawTick.2 with cntLast := some c }).emit (.cntRd c))

/-- The deadline predicate (R192): not past below the deadline, past above it, either at equality. -/
def State.past (c deadline : Nat) (s : State) : Bool × State :=
  if c < deadline then (false, s)
  else if deadline < c then (true, s)
  else s.drawTie

/-! ### Bus operations -/

/-- A device register read, its effect on the device and the value (R141 to R144), or the fault it raises (R142 to
R144, R149). -/
def deviceRead (r : Reg) (s : State) : Except FaultCode (Word × State) :=
  match r with
  | .rxReady => .ok (readyWord s.rxf, s)
  | .rxStatus =>
    match s.rxf with
    | [] => .error (.rxEmpty .rxStatus)
    | e :: _ => .ok (e.st, s)
  | .rxUpper32 =>
    match s.rxf with
    | [] => .error (.rxEmpty .rxUpper32)
    | e :: _ => .ok (e.up, s)
  | .rxLower32deq =>
    match s.rxf with
    | [] => .error (.rxEmpty .rxLower32deq)
    | e :: rest => .ok (e.lo, { s with rxf := rest })
  | .txStatus => .error (.illegalAccess (busCode 0 .txStatus))
  | .txUpper32 => .error (.illegalAccess (busCode 0 .txUpper32))
  | .txLower32send => .error (.illegalAccess (busCode 0 .txLower32send))
  | .txQueueenable => .error (.illegalAccess (busCode 0 .txQueueenable))

/-- The push of a `TX_LOWER32SEND` write (R147): the latch check first, then the room, then the entry is appended
and both latches are unwritten. -/
def devicePush (v : Word) (s : State) : Except FaultCode State :=
  match s.txs, s.txu with
  | some st, some up =>
    if s.txf.length = s.cfg.txDepth then .error .txFull
    else .ok { s with txf := s.txf ++ [⟨st, up, v⟩], txs := none, txu := none }
  | txs, txu => .error (.txLatch txs.isNone txu.isNone)

/-- A device register write and its effect on the device (R145 to R148), or the fault it raises (R147 to R149). -/
def deviceWrite (r : Reg) (v : Word) (s : State) : Except FaultCode State :=
  match r with
  | .txStatus => .ok { s with txs := some v }
  | .txUpper32 => .ok { s with txu := some v }
  | .txLower32send => devicePush v s
  | .txQueueenable =>
    if v = 0 ∨ v = 1 then .ok { s with qe := v.setWidth 1 } else .error (.qeValue v)
  | .rxReady => .error (.illegalAccess (busCode 1 .rxReady))
  | .rxStatus => .error (.illegalAccess (busCode 1 .rxStatus))
  | .rxUpper32 => .error (.illegalAccess (busCode 1 .rxUpper32))
  | .rxLower32deq => .error (.illegalAccess (busCode 1 .rxLower32deq))

/-- `BusRead(r)` in a framer state (R140): the event after the effect, then the rest of the state with the value
read; a fault leaves the state before it and appends nothing. -/
def onBusRead (r : Reg) (s : State) (rest : Word → State → State) : State :=
  match deviceRead r s with
  | .error c => s.raise c
  | .ok (v, t) => rest v (t.emit (.busRd r v))

/-- `BusWrite(r, v)` in a framer state (R140). -/
def onBusWrite (r : Reg) (v : Word) (s : State) (rest : State → State) : State :=
  match deviceWrite r v s with
  | .error c => s.raise c
  | .ok t => rest (t.emit (.busWr r v))

/-- A raw bus read of the host program, in state `B_EXEC` (R140). -/
def rawRead (r : Reg) (s : State) : StepOutcome :=
  atEntry .bExec s (onBusRead r s fun v t => t.finish (busCode 0 r) (.word v))

/-- A raw bus write of the host program, in state `B_EXEC` (R140). -/
def rawWrite (r : Reg) (v : Word) (s : State) : StepOutcome :=
  atEntry .bExec s (onBusWrite r v s fun t => t.finish (busCode 1 r) (.word 0))

/-! ### Register addresses and results as a host sees them -/

/-- The address a bus operation on a register reaches (R78, R79). -/
def regAddr (p : Params) (r : Reg) : Nat := p.pktBase + p.regOff.toList.getD r.number 0

/-- The register that stands at an address, if one does (R45 (a), R78). -/
def regAt (p : Params) (addr : Nat) : Option Reg :=
  [Reg.rxReady, .rxStatus, .rxUpper32, .rxLower32deq, .txStatus, .txUpper32, .txLower32send, .txQueueenable].find?
    fun r => regAddr p r == addr

/-- A `wait_for_tlp` result as one number: the byte count or a sentinel (R292, D26). No rule of the machine uses it. -/
def Result.numeric (p : Params) : Result → Option Int
  | .bytes n => some n
  | .timeout => some p.timeoutCode
  | .overflow => some p.overflowCode
  | _ => none

end Sys2Proof.Machine
end

