-- ==== Sys2Proof/Machine/BitMask.lean ====
section
/-! DEFINITION. The bit-mask utilities (41_bitmask.md): each a single framer step with no device access. -/

namespace Sys2Proof.Machine

/-- A `W`-bit mask as a call's result (R292). -/
def maskResult (w : Precision) (f : (W : Nat) → BitVec W) : Result :=
  match w with
  | .w32 => .mask32 (f 32)
  | .w64 => .mask64 (f 64)

/-- State `M_EXEC` (R170). -/
def maskExec (w : Precision) (width : Nat) (s : State) : State :=
  if precisionBits w < width then s.raise (.contract w [width])
  else s.finish codeMask (maskResult w fun W => maskValue W width)

/-- `CALL mask` (R170). -/
def execCallMask (w : Precision) (width : Nat) (s : State) : StepOutcome :=
  atEntry .mExec s (maskExec w width s)

/-- State `MB_EXEC` (R171). -/
def maskEnableExec (w : Precision) (high low : Nat) (s : State) : State :=
  if high < low ∨ precisionBits w - 1 < high then s.raise (.contract w [high, low])
  else s.finish codeMaskEnableBits (maskResult w fun W => maskEnableValue W high low)

/-- `CALL mask_enable_bits` (R171). -/
def execCallMaskEnableBits (w : Precision) (high low : Nat) (s : State) : StepOutcome :=
  atEntry .mbExec s (maskEnableExec w high low s)

end Sys2Proof.Machine
end

