-- ==== Sys2Proof/Machine/Lifecycle.lean ====
section
/-! DEFINITION. The lifecycle procedure (44_lifecycle.md). -/

namespace Sys2Proof.Machine

/-- `CALL close_connections` (R270): returns `UNIT` and does nothing else. -/
def execCallCloseConnections (s : State) : StepOutcome :=
  atEntry .ccExec s (s.finish codeCloseConnections .unit)

end Sys2Proof.Machine
end

