-- ==== Sys2Proof/Machine/Operands.lean ====
section
/-! DEFINITION. The operand forms: caller-buffer loads and stores (R72, R73) and the double-words a transmit call
sends (R75, R225). Every function gives the fault an access raises before it moves a byte (R72). -/

namespace Sys2Proof.Machine

/-- The host address of byte `o` of a buffer (R46; log 12). -/
def bufAddr (b : Buffer) (o : Nat) : Nat := b.base + o

/-- `Load32(buf, o)` (R72). -/
def load32 (b : Buffer) (o : Nat) (m : Memory) : Except FaultCode Word :=
  if b.extent < o + 4 then .error (.bufOob b o)
  else .ok (wordOfBytes (m.read (bufAddr b o)) (m.read (bufAddr b (o + 1))) (m.read (bufAddr b (o + 2)))
    (m.read (bufAddr b (o + 3))))

/-- `Store32(buf, o, v)` (R72). -/
def store32 (b : Buffer) (o : Nat) (v : Word) (m : Memory) : Except FaultCode Memory :=
  if b.extent < o + 4 then .error (.bufOob b o)
  else .ok (m.writeBytes (bufAddr b o) [byteOf v 0, byteOf v 1, byteOf v 2, byteOf v 3])

/-- `Load64(buf, o)`: upper half the double-word at `o + 4`, lower half the one at `o` (R72, R73). -/
def load64 (b : Buffer) (o : Nat) (m : Memory) : Except FaultCode (BitVec 64) :=
  if b.extent < o + 8 then .error (.bufOob b o)
  else
    match load32 b (o + 4) m, load32 b o m with
    | .ok up, .ok lo => .ok (quadOf up lo)
    | .error c, _ => .error c
    | _, .error c => .error c

/-- One byte of `SrcDW` (R75): below the stated length the buffer's byte, or `F_BUF_OOB` past what the caller owns;
at or past the stated length a drawn byte. -/
def srcByte (b : Buffer) (len o : Nat) (s : State) : Except FaultCode (Byte × State) :=
  if o < len then
    if o < b.extent then .ok (s.mem.read (bufAddr b o), s) else .error (.bufOob b o)
  else .ok s.drawByte

/-- `SrcDW(buf, len, o)` (R75), its bytes taken from the lowest up. -/
def srcDW (b : Buffer) (len o : Nat) (s : State) : Except FaultCode (Word × State) := do
  let (b0, s) ← srcByte b len o s
  let (b1, s) ← srcByte b len (o + 1) s
  let (b2, s) ← srcByte b len (o + 2) s
  let (b3, s) ← srcByte b len (o + 3) s
  return (wordOfBytes b0 b1 b2 b3, s)

/-- The data buffer of a `send_tlp` call; an absent one owns no byte (R222; log 22). -/
def dataBuffer (data : Option Buffer) : Buffer := data.getD ⟨0, 0⟩

/-- A base the caller may pass (R76). -/
def baseAligned (b : Buffer) : Bool := b.base % 8 == 0

end Sys2Proof.Machine
end

