-- ==== Sys2Proof/Machine/Receive.lean ====
section
/-! DEFINITION. The receive path (42_receive.md): `wait_for_tlp` and `drain_pcie_core`, one function per named
state. -/

namespace Sys2Proof.Machine

/-! ### wait_for_tlp -/

/-- The preconditions of `wait_for_tlp`, in order (R181). A deadline is a natural, and every natural is in the
counter's range (R296, D28), so its check never fails. -/
def waitChecks (buffer : Buffer) (cap : Nat) : List (Bool × RefuseReason) :=
  [(baseAligned buffer, .bufAlign), (decide (cap < 2 ^ 32), .lenRange)]

/-- State `W_INIT` (R181, R182). -/
def waitInit (buffer : Buffer) (cap : Nat) (s : State) : State :=
  match firstFailing (waitChecks buffer cap) with
  | some r => s.refuse r
  | none => { s with work := { cursor := some 0 }, fsm := .wDl }

/-- A deadline check: the counter is read, then `TIMEOUT` is returned if the deadline is past (R183, R190). -/
def waitDeadline (deadline : Nat) (next : Fsm) (s : State) : State :=
  let t := s.readCounter.2
  match t.past s.readCounter.1 deadline with
  | (true, t) => t.finish codeWaitForTlp .timeout
  | (false, t) => t.goto next

/-- State `W_RDY` (R184). -/
def waitReady (s : State) : State :=
  onBusRead .rxReady s fun r t => t.goto (if bitAt r 0 then .wSt else .wDl)

/-- State `W_ST` (R185). -/
def waitStatus (s : State) : State :=
  onBusRead .rxStatus s fun v t => { t with work := { t.work with s := some v }, fsm := .wUp }

/-- State `W_UP` (R186). -/
def waitUpper (s : State) : State :=
  onBusRead .rxUpper32 s fun v t => { t with work := { t.work with u := some v }, fsm := .wLo }

/-- State `W_LO` (R187). -/
def waitLower (s : State) : State :=
  onBusRead .rxLower32deq s fun v t => { t with work := { t.work with l := some v }, fsm := .wApp }

/-- State `W_APP` (R188): the cursor restarts at a start of packet; the lower word is stored, then the upper. Where
the upper store faults the lower store stands (R294 (b)), and nothing else of the state changes (R281; log 10). -/
def waitAppend (buffer : Buffer) (cursor : Nat) (st up lo : Word) (s : State) : State :=
  let c := if sopOf s.cfg st then 0 else cursor
  match store32 buffer c lo s.mem with
  | .error f => s.raise f
  | .ok m =>
    match store32 buffer (c + 4) up m with
    | .error f => { s with mem := m }.raise f
    | .ok m' => { s with mem := m', work := { s.work with cursor := some (c + 8) }, fsm := .wOvf }

/-- State `W_OVF` (R189): the count of 32-bit words against the byte capacity, literally. -/
def waitOverflow (cap cursor : Nat) (s : State) : State :=
  if cursor / 4 > cap then (s.emit .diagOverflow).finish codeWaitForTlp .overflow else s.goto .wDl2

/-- State `W_EOP` (R191). -/
def waitEop (cursor : Nat) (st : Word) (s : State) : State :=
  if eopOf s.cfg st then s.finish codeWaitForTlp (.bytes cursor) else s.goto .wSt

/-- `CALL wait_for_tlp` (R180): the step of the state `fsm` names. -/
def execCallWaitForTlp (buffer : Buffer) (cap deadline : Nat) (s : State) : StepOutcome :=
  match s.fsm with
  | .idle => .next (waitInit buffer cap s)
  | .wInit => .next (waitInit buffer cap s)
  | .wDl => .next (waitDeadline deadline .wRdy s)
  | .wRdy => .next (waitReady s)
  | .wSt => .next (waitStatus s)
  | .wUp => .next (waitUpper s)
  | .wLo => .next (waitLower s)
  | .wApp =>
    readWork s.work.cursor fun cursor => readWork s.work.s fun st => readWork s.work.u fun up =>
      readWork s.work.l fun lo => .next (waitAppend buffer cursor st up lo s)
  | .wOvf => readWork s.work.cursor fun cursor => .next (waitOverflow cap cursor s)
  | .wDl2 => .next (waitDeadline deadline .wEop s)
  | .wEop => readWork s.work.cursor fun cursor => readWork s.work.s fun st => .next (waitEop cursor st s)
  | _ => .fault .controlMismatch

/-! ### drain_pcie_core -/

/-- State `D_RDY` (R196). -/
def drainReady (s : State) : State :=
  onBusRead .rxReady s fun r t => if bitAt r 0 then t.goto .dSt else t.finish codeDrainPcieCore .unit

/-- State `D_ST` (R197). -/
def drainStatus (s : State) : State :=
  onBusRead .rxStatus s fun v t => { t with work := { t.work with s := some v }, fsm := .dUp }

/-- State `D_UP` (R197). -/
def drainUpper (s : State) : State :=
  onBusRead .rxUpper32 s fun v t => { t with work := { t.work with u := some v }, fsm := .dLo }

/-- State `D_LO` (R197). -/
def drainLower (s : State) : State :=
  onBusRead .rxLower32deq s fun v t => { t with work := { t.work with l := some v, k := some 0 }, fsm := .dSpin }

/-- State `D_SPIN` (R198). -/
def drainSpin (k : Nat) (s : State) : State :=
  if k < s.cfg.drainSpin then { s with work := { s.work with k := some (k + 1) } } else s.goto .dRdy

/-- `CALL drain_pcie_core` (R195): the step of the state `fsm` names. -/
def execCallDrainPcieCore (s : State) : StepOutcome :=
  match s.fsm with
  | .idle => .next (drainReady { s with work := {} })
  | .dRdy => .next (drainReady s)
  | .dSt => .next (drainStatus s)
  | .dUp => .next (drainUpper s)
  | .dLo => .next (drainLower s)
  | .dSpin => readWork s.work.k fun k => .next (drainSpin k s)
  | _ => .fault .controlMismatch

end Sys2Proof.Machine
end

