-- ==== Sys2Proof/Machine/RegisterOps.lean ====
section
/-! DEFINITION. The raw bus operations of the host program (40_register_ops.md), one meaning per row. -/

namespace Sys2Proof.Machine

/-- `RD RX_READY` (R141). -/
def execRdRxReady (s : State) : StepOutcome := rawRead .rxReady s

/-- `RD RX_STATUS` (R142). -/
def execRdRxStatus (s : State) : StepOutcome := rawRead .rxStatus s

/-- `RD RX_UPPER32` (R143). -/
def execRdRxUpper32 (s : State) : StepOutcome := rawRead .rxUpper32 s

/-- `RD RX_LOWER32DEQ` (R144). -/
def execRdRxLower32deq (s : State) : StepOutcome := rawRead .rxLower32deq s

/-- `RD TX_STATUS`: `F_ILLEGAL_ACCESS` (R149). -/
def execRdTxStatus (s : State) : StepOutcome := rawRead .txStatus s

/-- `RD TX_UPPER32`: `F_ILLEGAL_ACCESS` (R149). -/
def execRdTxUpper32 (s : State) : StepOutcome := rawRead .txUpper32 s

/-- `RD TX_LOWER32SEND`: `F_ILLEGAL_ACCESS` (R149). -/
def execRdTxLower32send (s : State) : StepOutcome := rawRead .txLower32send s

/-- `RD TX_QUEUEENABLE`: `F_ILLEGAL_ACCESS` (R149). -/
def execRdTxQueueenable (s : State) : StepOutcome := rawRead .txQueueenable s

/-- `WR RX_READY`: `F_ILLEGAL_ACCESS` (R149). -/
def execWrRxReady (v : Word) (s : State) : StepOutcome := rawWrite .rxReady v s

/-- `WR RX_STATUS`: `F_ILLEGAL_ACCESS` (R149). -/
def execWrRxStatus (v : Word) (s : State) : StepOutcome := rawWrite .rxStatus v s

/-- `WR RX_UPPER32`: `F_ILLEGAL_ACCESS` (R149). -/
def execWrRxUpper32 (v : Word) (s : State) : StepOutcome := rawWrite .rxUpper32 v s

/-- `WR RX_LOWER32DEQ`: `F_ILLEGAL_ACCESS` (R149). -/
def execWrRxLower32deq (v : Word) (s : State) : StepOutcome := rawWrite .rxLower32deq v s

/-- `WR TX_STATUS` (R145). -/
def execWrTxStatus (v : Word) (s : State) : StepOutcome := rawWrite .txStatus v s

/-- `WR TX_UPPER32` (R146). -/
def execWrTxUpper32 (v : Word) (s : State) : StepOutcome := rawWrite .txUpper32 v s

/-- `WR TX_LOWER32SEND` (R147). -/
def execWrTxLower32send (v : Word) (s : State) : StepOutcome := rawWrite .txLower32send v s

/-- `WR TX_QUEUEENABLE` (R148). -/
def execWrTxQueueenable (v : Word) (s : State) : StepOutcome := rawWrite .txQueueenable v s

end Sys2Proof.Machine
end

