-- ==== Sys2Proof/Machine/Transmit.lean ====
section
/-! DEFINITION. The transmit path (43_transmit.md): quadword emission, `send_tlp` and `send_tlp_unaligned`, one
function per named state. -/

namespace Sys2Proof.Machine

/-! ### Quadword emission -/

/-- `EMIT(qs, qe, qu, ql) -> K` (R220): the operands and the continuation are set, the framer goes to `Q_ST`. -/
def emitQuad (qs qe : Bool) (qu ql : Word) (kont : Fsm) (s : State) : State :=
  { s with
    work := { s.work with qs := some (bit1 qs), qe := some (bit1 qe), qu := some qu, ql := some ql, kont := some kont }
    fsm := .qSt }

/-- State `Q_ST` (R220, R221). -/
def quadStatus (qs qe : BitVec 1) (s : State) : State :=
  onBusWrite .txStatus (txStatusWord s.cfg qs qe) s fun t => t.goto .qUp

/-- State `Q_UP` (R220). -/
def quadUpper (qu : Word) (s : State) : State := onBusWrite .txUpper32 qu s fun t => t.goto .qLo

/-- State `Q_LO` (R220). -/
def quadLower (ql : Word) (kont : Fsm) (s : State) : State :=
  onBusWrite .txLower32send ql s fun t => t.goto kont

/-- The two double-words of a quadword, read upper first (log 11), then the rest of the state with them; a fault
leaves the state before the step (R281). -/
def withQuad (upper lower : State → Except FaultCode (Word × State)) (s : State)
    (rest : Word → Word → State → State) : State :=
  match upper s with
  | .error c => s.raise c
  | .ok (hi, t) =>
    match lower t with
    | .error c => s.raise c
    | .ok (lo, t) => rest hi lo t

/-! ### send_tlp -/

/-- The preconditions of `send_tlp`, in order (R223). The base of a data buffer is checked whatever the length, as R76 says
(log 33); an absent one (R222) has none to check. -/
def sendChecks (header : Buffer) (headerLen : Nat) (data : Option Buffer) (dataLen alignment : Nat) (p : Params) :
    List (Bool × RefuseReason) :=
  [(headerLen == 12 || headerLen == 16, .hdrLen),
   (dataLen % 4 == 0, .dataLen),
   (decide (dataLen < 2 ^ 31), .lenRange),
   (alignment == p.alignedCode || alignment == p.unalignedCode, .alignMode),
   (baseAligned header, .bufAlign),
   (baseAligned (dataBuffer data), .bufAlign)]

/-- State `S_QW0` (R223, R226): the preconditions, then the seed quadword, before any hold. -/
def sendSeed (header : Buffer) (headerLen : Nat) (data : Option Buffer) (dataLen alignment : Nat) (s : State) : State :=
  match firstFailing (sendChecks header headerLen data dataLen alignment s.cfg) with
  | some r => s.refuse r
  | none =>
    withQuad (srcDW header headerLen 4) (srcDW header headerLen 0) s fun hi lo t =>
      emitQuad true false hi lo .sHold { t with work := {} }

/-- State `S_HOLD` (R227). -/
def sendHold (s : State) : State := onBusWrite .txQueueenable 0 s fun t => t.goto .sBr

/-- State `S_BR` (R228). -/
def sendBranch (headerLen alignment : Nat) (s : State) : State :=
  s.goto (if headerLen = 12 ∧ alignment = s.cfg.unalignedCode then .sM else .sG)

/-- State `S_M` (R229): header double-word 2 above the first data double-word. -/
def sendMerged (header : Buffer) (headerLen : Nat) (data : Buffer) (dataLen : Nat) (s : State) : State :=
  withQuad (srcDW header headerLen 8) (srcDW data dataLen 0) s fun hi lo t =>
    emitQuad false (decide (dataLen ≤ 4)) hi lo .sUl { t with work := { t.work with bi := some 4 } }

/-- State `S_G` (R231): the second header quadword as it is. -/
def sendGeneric (header : Buffer) (headerLen dataLen : Nat) (s : State) : State :=
  withQuad (srcDW header headerLen 12) (srcDW header headerLen 8) s fun hi lo t =>
    emitQuad false (decide (dataLen = 0)) hi lo .sAl { t with work := { t.work with bi := some 0 } }

/-- States `S_UL` and `S_AL` (R230, R232): the data double-words at `bi` and `bi + 4`, back to the same state. -/
def sendData (data : Buffer) (dataLen bi : Nat) (loop : Fsm) (s : State) : State :=
  if bi < dataLen then
    withQuad (srcDW data dataLen (bi + 4)) (srcDW data dataLen bi) s fun hi lo t =>
      emitQuad false (decide (bi + 8 ≥ dataLen)) hi lo loop { t with work := { t.work with bi := some (bi + 8) } }
  else s.goto .sRel

/-- State `S_REL` (R233). -/
def sendRelease (s : State) : State := onBusWrite .txQueueenable 1 s fun t => t.finish codeSendTlp .success

/-- `CALL send_tlp` (R222): the step of the state `fsm` names. -/
def execCallSendTlp (header : Buffer) (headerLen : Nat) (data : Option Buffer) (dataLen alignment : Nat) (s : State) :
    StepOutcome :=
  match s.fsm with
  | .idle => .next (sendSeed header headerLen data dataLen alignment s)
  | .sQw0 => .next (sendSeed header headerLen data dataLen alignment s)
  | .qSt => readWork s.work.qs fun qs => readWork s.work.qe fun qe => .next (quadStatus qs qe s)
  | .qUp => readWork s.work.qu fun qu => .next (quadUpper qu s)
  | .qLo => readWork s.work.ql fun ql => readWork s.work.kont fun kont => .next (quadLower ql kont s)
  | .sHold => .next (sendHold s)
  | .sBr => .next (sendBranch headerLen alignment s)
  | .sM => .next (sendMerged header headerLen (dataBuffer data) dataLen s)
  | .sUl => readWork s.work.bi fun bi => .next (sendData (dataBuffer data) dataLen bi .sUl s)
  | .sG => .next (sendGeneric header headerLen dataLen s)
  | .sAl => readWork s.work.bi fun bi => .next (sendData (dataBuffer data) dataLen bi .sAl s)
  | .sRel => .next (sendRelease s)
  | _ => .fault .controlMismatch

/-! ### send_tlp_unaligned -/

/-- The preconditions of `send_tlp_unaligned`, in order (R237). The base is checked whatever the length, as R76 says
(log 33). -/
def unalignedChecks (tlp : Buffer) (tlpLen : Nat) : List (Bool × RefuseReason) :=
  [(decide (tlpLen < 2 ^ 31 - 7), .lenRange), (baseAligned tlp, .bufAlign)]

/-- State `U_INIT` (R237, R238): the quadword count, rounded as the rule says. -/
def unalignedInit (tlp : Buffer) (tlpLen : Nat) (s : State) : State :=
  match firstFailing (unalignedChecks tlp tlpLen) with
  | some r => s.refuse r
  | none => { s with work := { n := some ((tlpLen + 7) / 8), q := some 0 }, fsm := .uLoop }

/-- The upper double-word of quadword `q` (R239): zero under the literal pad condition, and then not read. -/
def unalignedUpper (tlp : Buffer) (tlpLen q : Nat) (s : State) : Except FaultCode (Word × State) :=
  if q + 1 ≥ tlpLen then .ok (0, s) else srcDW tlp tlpLen (8 * q + 4) s

/-- State `U_LOOP` (R239): the lower double-word is read first (log 11). -/
def unalignedLoop (tlp : Buffer) (tlpLen q n : Nat) (s : State) : State :=
  if q < n then
    withQuad (srcDW tlp tlpLen (8 * q)) (unalignedUpper tlp tlpLen q) s fun lo hi t =>
      emitQuad (decide (q = 0)) (decide (q + 1 = n)) hi lo .uLoop { t with work := { t.work with q := some (q + 1) } }
  else s.goto .uHook

/-- State `U_HOOK` (R240). -/
def unalignedHook (s : State) : State := (s.emit .hookTs).finish codeSendTlpUnaligned .success

/-- `CALL send_tlp_unaligned` (R237): the step of the state `fsm` names. -/
def execCallSendTlpUnaligned (tlp : Buffer) (tlpLen : Nat) (s : State) : StepOutcome :=
  match s.fsm with
  | .idle => .next (unalignedInit tlp tlpLen s)
  | .uInit => .next (unalignedInit tlp tlpLen s)
  | .uLoop => readWork s.work.q fun q => readWork s.work.n fun n => .next (unalignedLoop tlp tlpLen q n s)
  | .qSt => readWork s.work.qs fun qs => readWork s.work.qe fun qe => .next (quadStatus qs qe s)
  | .qUp => readWork s.work.qu fun qu => .next (quadUpper qu s)
  | .qLo => readWork s.work.ql fun ql => readWork s.work.kont fun kont => .next (quadLower ql kont s)
  | .uHook => .next (unalignedHook s)
  | _ => .fault .controlMismatch

end Sys2Proof.Machine
end

