-- ==== Sys2Proof/Machine/Dispatch.lean ====
section
/-! DEFINITION. One framer step of an operation: the state that the control position names is executed (R33). -/

namespace Sys2Proof.Machine

def exec (i : Instr) (s : State) : Host.Outcome State Fault Refusal :=
  match i with
  | .rdRxReady => Sys2Proof.Machine.execRdRxReady s
  | .rdRxStatus => Sys2Proof.Machine.execRdRxStatus s
  | .rdRxUpper32 => Sys2Proof.Machine.execRdRxUpper32 s
  | .rdRxLower32deq => Sys2Proof.Machine.execRdRxLower32deq s
  | .rdTxStatus => Sys2Proof.Machine.execRdTxStatus s
  | .rdTxUpper32 => Sys2Proof.Machine.execRdTxUpper32 s
  | .rdTxLower32send => Sys2Proof.Machine.execRdTxLower32send s
  | .rdTxQueueenable => Sys2Proof.Machine.execRdTxQueueenable s
  | .wrRxReady v => Sys2Proof.Machine.execWrRxReady v s
  | .wrRxStatus v => Sys2Proof.Machine.execWrRxStatus v s
  | .wrRxUpper32 v => Sys2Proof.Machine.execWrRxUpper32 v s
  | .wrRxLower32deq v => Sys2Proof.Machine.execWrRxLower32deq v s
  | .wrTxStatus v => Sys2Proof.Machine.execWrTxStatus v s
  | .wrTxUpper32 v => Sys2Proof.Machine.execWrTxUpper32 v s
  | .wrTxLower32send v => Sys2Proof.Machine.execWrTxLower32send v s
  | .wrTxQueueenable v => Sys2Proof.Machine.execWrTxQueueenable v s
  | .callMask w width => Sys2Proof.Machine.execCallMask w width s
  | .callMaskEnableBits w high low => Sys2Proof.Machine.execCallMaskEnableBits w high low s
  | .callWaitForTlp buffer cap deadline => Sys2Proof.Machine.execCallWaitForTlp buffer cap deadline s
  | .callDrainPcieCore => Sys2Proof.Machine.execCallDrainPcieCore s
  | .callSendTlp header headerLen data dataLen alignment => Sys2Proof.Machine.execCallSendTlp header headerLen data dataLen alignment s
  | .callSendTlpUnaligned tlp tlpLen => Sys2Proof.Machine.execCallSendTlpUnaligned tlp tlpLen s
  | .callCloseConnections => Sys2Proof.Machine.execCallCloseConnections s

end Sys2Proof.Machine
end

