-- ==== Sys2Proof/Machine/Fetch.lean ====
section
/-! DEFINITION. What the framer finds to do: the operation at `hp` (R32, R33), and how a program comes to stand
there. -/

namespace Sys2Proof.Machine

/-- What the framer's turn finds. -/
inductive Fetched where
  /-- No step: `FAULTED`, `REFUSED`, or `IDLE` at the end of the program (R33, R281, R290). -/
  | noStep
  /-- In mid-call with no operation at `hp`: never reached (log 8). -/
  | lost
  /-- The operation at `hp` does not decode (R104). -/
  | rejected (e : DecodeError)
  | op (i : Instr)
  deriving DecidableEq, Repr

/-- The operation the framer executes a state of. It is decoded from the program at every step; the program never
changes, so a call keeps the operation it began with. -/
def State.fetch (s : State) : Fetched :=
  if s.fsm = .faulted ∨ s.fsm = .refused then .noStep
  else
    match s.program[s.hp]? with
    | none => if s.fsm = .idle then .noStep else .lost
    | some raw =>
      match decode raw with
      | .ok i => .op i
      | .error e => .rejected e

/-- The state with a one-operation program loaded and the framer about to start it (log 1): the operation at
`hp` 0, the framer `IDLE` with no mark, and the next turn the framer's. -/
def State.withOperation (raw : RawOp) (s : State) : State :=
  { s with
    program := [raw], hp := 0, fsm := .idle, fault := none, refused := none,
    env := { s.env with turns := .framer :: s.env.turns } }

end Sys2Proof.Machine
end

