-- ==== Sys2Proof/Machine/Links.lean ====
section
/-! DEFINITION. The steps of the link agents (R150 to R152). A link whose step is not enabled waits: its turn changes
nothing (log 4). -/

namespace Sys2Proof.Machine

/-- An entry placed at the tail of RXF by the receive link (R150). -/
def rxDeliver (e : Entry) (s : State) : State := ({ s with rxf := s.rxf ++ [e] }).emit (.linkRx e)

/-- The receive-link step (R150): enabled when `rx_stream` has an entry and RXF has room. -/
def rxLinkStep (s : State) : State :=
  if s.rxf.length < s.cfg.rxDepth then
    match s.rxStream with
    | e :: rest => rxDeliver e { s with rxStream := rest }
    | [] => if s.rxEndless then rxDeliver s.drawEntry.1 s.drawEntry.2 else s
  else s

/-- The transmit-link step (R151): enabled when `QE = 1` and TXF holds an entry. In a loopback run (R152) the entry
moves into RXF, which must have room for it. -/
def txLinkStep (s : State) : State :=
  if s.qe = 1 then
    match s.txf with
    | [] => s
    | e :: rest =>
      if s.loopback then
        if s.rxf.length < s.cfg.rxDepth then rxDeliver e (({ s with txf := rest }).emit (.linkTx e)) else s
      else ({ s with txf := rest }).emit (.linkTx e)
  else s

end Sys2Proof.Machine
end

