-- ==== Sys2Proof/Machine/Step.lean ====
section
/-! DEFINITION. One step of the machine: the agent whose turn it is takes its step (R4, R12), and a turn whose agent
has no step changes nothing (log 4). -/

namespace Sys2Proof.Machine

/-- The framer's turn (R33): a state of the current operation is executed; an operation that does not decode is
refused `RF_UNKNOWN_OP` (R104). -/
def framerStep (s : State) : Host.Outcome State Fault Refusal :=
  match s.fetch with
  | .noStep => .next s
  | .lost => .fault .controlMismatch
  | .rejected _ => .next (s.refuse .unknownOp)
  | .op i => exec i s

/-- One step of the machine. -/
def step (s : State) : Host.Outcome State Fault Refusal :=
  match s.nextTurn with
  | (.framer, t) => framerStep t
  | (.rxLink, t) => .next (rxLinkStep t)
  | (.txLink, t) => .next (txLinkStep t)

/-- The state in which the very next step runs the operation of an opcode-table word (log 1). -/
def State.withFetchWord (s : State) (nbits w : Nat) : State := s.withOperation (rawOfTable nbits w)

end Sys2Proof.Machine
end

