-- ==== Sys2Proof/Machine/Launch.lean ====
section
/-! DEFINITION. The launch state for any launch parameters (R320). `State.reset` is the launch with no program and the
open parameters free (Laws/State.lean proves it). -/

namespace Sys2Proof.Machine

/-- The launch parameters of a run (R7, R34, R40, R41, R43, R46, R47, R152), and where its draws come from. -/
structure Launch where
  cfg : Params
  loopback : Bool := false
  program : List RawOp := []
  rxf0 : List Entry := []
  txf0 : List Entry := []
  qe : BitVec 1 := 0
  /-- The caller buffers' bytes, by host address (R46). -/
  cells : List Host.Cell := []
  rxStream : List Entry := []
  rxEndless : Bool := false
  env : Env := {}
  deriving DecidableEq, Repr

/-- The launch state (R320). A configuration that is not well-formed is refused `RF_CONFIG` (R9, R291). The FIFOs
keep at most their depth (R40, R41); in a loopback run `rx_stream` is empty (R152). -/
def State.launch (l : Launch) : State where
  cfg := l.cfg
  loopback := l.loopback
  program := l.program
  hp := 0
  fsm := if l.cfg.wf then .idle else .refused
  work := {}
  rxf := l.rxf0.take l.cfg.rxDepth
  txf := l.txf0.take l.cfg.txDepth
  txs := none
  txu := none
  qe := l.qe
  mem := Memory.ofCells l.cells
  rxStream := if l.loopback then [] else l.rxStream
  rxEndless := !l.loopback && l.rxEndless
  cntLast := none
  trace := []
  fault := none
  refused := if l.cfg.wf then none else some .config
  env := l.env

end Sys2Proof.Machine
end

