-- ==== Sys2Proof/Safety.lean ====
section
/-! DEFINITION. What claims speak of: a final run, the invariant of every run, a run of framer steps with no link
step between, the contents a burst or an attempt should have, and whole runs with their fairness premises. -/

namespace Sys2Proof.Machine

/-- A final run (R272): the framer `IDLE` at the end of the host program, nothing recorded. -/
abbrev State.final (s : State) : Prop :=
  s.fsm = .idle ∧ s.hp = s.program.length ∧ s.fault = none ∧ s.refused = none

/-- The state after an operation with code `op` has returned `v`, its last step having appended `es` (R33). -/
abbrev State.returned (s : State) (op : BitVec 8) (v : Result) (es : List Event) : State :=
  { s with hp := s.hp + 1, fsm := .idle, work := { ret := some v }, trace := s.trace ++ es ++ [.ret op v] }

/-- The state after a fault: the state before, plus the mark (R281). -/
abbrev State.faultedBy (s : State) (c : FaultCode) : State := { s with fault := some c, fsm := .faulted }

/-- The state after a refusal: the state before, plus the mark (R290). -/
abbrev State.refusedFor (s : State) (r : RefuseReason) : State := { s with refused := some r, fsm := .refused }

/-- The little-endian word at a host address (R72). -/
abbrev wordAt (m : Memory) (a : Nat) : Word :=
  m.read (a + 3) ++ m.read (a + 2) ++ m.read (a + 1) ++ m.read a

/-- The caller owns every byte below the stated length of the double-word at offset `o` (R75). -/
abbrev srcOwned (b : Buffer) (len o : Nat) : Prop := ∀ i, i < 4 → o + i < len → o + i < b.extent

/-- The word agrees with the buffer in every byte below the stated length; its other bytes are drawn (R75). -/
abbrev srcMatches (m : Memory) (b : Buffer) (len o : Nat) (w : Word) : Prop :=
  ∀ i, i < 4 → o + i < len → byteOf w i = m.read (b.base + o + i)

/-- `k` framer steps with no link step between them. -/
def framerRun : Nat → State → StepOutcome
  | 0, s => .next s
  | k + 1, s =>
    match framerStep s with
    | .next t => framerRun k t
    | .fault f => .fault f
    | .refused r => .refused r

/-- The states of an operation's state machine (R32). -/
def statesOf : Instr → List Fsm
  | .callMask _ _ => [.mExec]
  | .callMaskEnableBits _ _ _ => [.mbExec]
  | .callWaitForTlp _ _ _ => [.wInit, .wDl, .wRdy, .wSt, .wUp, .wLo, .wApp, .wOvf, .wDl2, .wEop]
  | .callDrainPcieCore => [.dRdy, .dSt, .dUp, .dLo, .dSpin]
  | .callSendTlp _ _ _ _ _ => [.sQw0, .qSt, .qUp, .qLo, .sHold, .sBr, .sM, .sUl, .sG, .sAl, .sRel]
  | .callSendTlpUnaligned _ _ => [.uInit, .uLoop, .qSt, .qUp, .qLo, .uHook]
  | .callCloseConnections => [.ccExec]
  | .rdRxReady | .rdRxStatus | .rdRxUpper32 | .rdRxLower32deq => [.bExec]
  | .rdTxStatus | .rdTxUpper32 | .rdTxLower32send | .rdTxQueueenable => [.bExec]
  | .wrRxReady _ | .wrRxStatus _ | .wrRxUpper32 _ | .wrRxLower32deq _ => [.bExec]
  | .wrTxStatus _ | .wrTxUpper32 _ | .wrTxLower32send _ | .wrTxQueueenable _ => [.bExec]

/-- The registers the data loops keep while a quadword is emitted are written (R229 to R232, R239). -/
def loopReady (w : Work) : Fsm → Bool
  | .sUl | .sAl => w.bi.isSome
  | .uLoop => w.q.isSome && w.n.isSome
  | _ => true

/-- The continuation of an emission is written, is a state of the operation, and finds its registers (R220). -/
def kontReady (i : Instr) (w : Work) : Bool :=
  match w.kont with
  | some f => (statesOf i).contains f && [Fsm.sHold, .sUl, .sAl, .uLoop].contains f && loopReady w f
  | none => false

/-- The working registers that a state, or a state after it, reads are written (R31). -/
def workReady (i : Instr) (w : Work) : Fsm → Bool
  | .wDl | .wRdy | .wSt => w.cursor.isSome
  | .wUp => w.cursor.isSome && w.s.isSome
  | .wLo => w.cursor.isSome && w.s.isSome && w.u.isSome
  | .wApp => w.cursor.isSome && w.s.isSome && w.u.isSome && w.l.isSome
  | .wOvf | .wDl2 | .wEop => w.cursor.isSome && w.s.isSome
  | .dSpin => w.k.isSome
  | .qSt => w.qs.isSome && w.qe.isSome && w.qu.isSome && w.ql.isSome && kontReady i w
  | .qUp => w.qu.isSome && w.ql.isSome && kontReady i w
  | .qLo => w.ql.isSome && kontReady i w
  | f => loopReady w f

/-- The control position is one that a run can stand in (R32, R33): no call in progress, or a state of the operation
at `hp`, its registers written. -/
def State.controlOk (s : State) : Bool :=
  match s.fsm with
  | .idle | .faulted | .refused => true
  | f =>
    match s.fetch with
    | .op i => (statesOf i).contains f && workReady i s.work f
    | _ => false

/-- The invariant of every run. -/
structure State.Inv (s : State) : Prop where
  /-- Host memory is in its canonical form. -/
  memWf : s.mem.wf
  /-- RXF holds at most `RX_DEPTH` entries (R40). -/
  rxFits : s.rxf.length ≤ s.cfg.rxDepth
  /-- TXF holds at most `TX_DEPTH` entries (R41). -/
  txFits : s.txf.length ≤ s.cfg.txDepth
  /-- Only a refused run has a configuration that is not well-formed (R9). -/
  configured : s.cfg.wf ∨ s.fsm = .refused
  /-- The framer is `FAULTED` exactly when a fault is recorded (R281). -/
  faultMark : s.fsm = .faulted ↔ s.fault ≠ none
  /-- The framer is `REFUSED` exactly when a refusal is recorded (R290). -/
  refuseMark : s.fsm = .refused ↔ s.refused ≠ none
  /-- The control position fits the operation at `hp`, and no register is read unwritten (R31, R32). -/
  control : s.controlOk = true
  /-- `hp` stays within the program (R33). -/
  hpBound : s.hp ≤ s.program.length
  /-- Between calls the working registers are unwritten, but for the last result (R274; log 20). -/
  idleWork : s.fsm = .idle → s.work = { ret := s.work.ret }
  /-- The cursor is a multiple of 8 (R193 (d)). -/
  cursorAligned : ∀ c, s.work.cursor = some c → 8 ∣ c
  /-- In a loopback run the receive link has nothing to deliver (R152). -/
  loopbackStream : s.loopback = true → s.rxStream = [] ∧ s.rxEndless = false

/-- The bus events of one emitted quadword, in their fixed order (R220). -/
def quadEvents (e : Entry) : List Event := [.busWr .txStatus e.st, .busWr .txUpper32 e.up, .busWr .txLower32send e.lo]

/-- The bus events of one discarded entry in a drain (R196, R197). -/
def discardEvents (e : Entry) : List Event :=
  [.busRd .rxReady 1, .busRd .rxStatus e.st, .busRd .rxUpper32 e.up, .busRd .rxLower32deq e.lo]

/-- The bus and counter events of the entries of a packet (R185 to R187, R190): each entry's status, upper and lower
reads in that order, then the counter, which has moved on from `c` by the entry's increment. -/
def receiveEvents : Nat → List Nat → List Entry → List Event
  | c, tick :: ticks, e :: es =>
    [.busRd .rxStatus e.st, .busRd .rxUpper32 e.up, .busRd .rxLower32deq e.lo, .cntRd (c + tick)] ++
      receiveEvents (c + tick) ticks es
  | _, _, _ => []

/-- The framing of a burst of `n` quadwords (R235, R241 (f)): entry `j` carries startofpacket if it is the first and
endofpacket if it is the last. -/
abbrev framedBurst (p : Params) (es : List Entry) : Prop :=
  ∀ j (h : j < es.length), (es[j]).st = txStatusWord p (bit1 (decide (j = 0))) (bit1 (decide (j + 1 = es.length)))

/-- Byte `o` of the quadwords of a list of entries, the lower half first (R72, R73). -/
def payloadByte (es : List Entry) (o : Nat) : Byte :=
  match es[o / 8]? with
  | some e => if o % 8 < 4 then byteOf e.lo (o % 8) else byteOf e.up (o % 8 - 4)
  | none => 0

/-- The entries of the packet attempt in progress after reading a list of entries: a start of packet abandons what
came before it (R188). -/
def attemptOf (p : Params) (es : List Entry) : List Entry :=
  es.foldl (fun acc e => if sopOf p e.st then [e] else acc ++ [e]) []

/-- The quadword count of a `send_tlp` call (R234). -/
def sendCount (merged : Bool) (dataLen : Nat) : Nat :=
  if merged then 2 + (dataLen - 4 + 7) / 8 else 2 + (dataLen + 7) / 8

/-! ### Whole runs and fairness -/

/-- A run (R12, R13): each state is a step of the one before, under the draws chosen for that step (log 32). -/
def IsRun (r : Nat → State) (draws : Nat → Env) : Prop :=
  ∀ k, step { r k with env := draws k } = .next (r (k + 1))

/-- Step `k` of a run is the turn of `a`. -/
abbrev turnAt (r : Nat → State) (draws : Nat → Env) (k : Nat) (a : Agent) : Prop :=
  ({ r k with env := draws k } : State).nextTurn.1 = a

/-- The turns of `a` never cease, so that a step of `a` that stays enabled is taken: the fairness premise of a claim on
a link (R272, R332) or on the framer (log 32). -/
def TurnsFair (r : Nat → State) (draws : Nat → Env) (a : Agent) : Prop :=
  ∀ k, ∃ j, k ≤ j ∧ turnAt r draws j a

/-- Step `k` of a run reads the counter and gets `c` (R296). -/
def readsCounterAt (r : Nat → State) (k c : Nat) : Prop :=
  ∃ es, (r (k + 1)).trace = (r k).trace ++ es ∧ Event.cntRd c ∈ es

/-- The counter is unbounded in the run (R296): if it is read infinitely often, then for every `B` some read is
above `B`. -/
def CounterFair (r : Nat → State) : Prop :=
  (∀ k, ∃ j c, k ≤ j ∧ readsCounterAt r j c) → ∀ B, ∃ j c, B < c ∧ readsCounterAt r j c

/-- The call at the start of a run has ended by state `s`: it has returned (R271), or the framer has halted. DESIGN CHOICE
(log 34): R271 lets a call end at a return alone; that a fault or a refusal ends it too is the opening sentence of
60_exceptions.md. -/
def callEnded (first s : State) : Prop :=
  (s.fsm = .idle ∧ s.hp = first.hp + 1 ∧ s.work.ret.isSome = true) ∨ s.fsm = .faulted ∨ s.fsm = .refused

end Sys2Proof.Machine
end

