-- ==== Sys2Proof/Certificates/Slice0/Obligations.lean ====
section
/-! DEFINITION. The statements for the provers. Each docstring says which rule of the spec it formalises. -/

open Sys2Proof Sys2Proof.Machine

/-! ### Encoding -/

/-- Decoding the encoding of a well-formed operation gives it back, every operand at every value (R100 to R102). -/
def Obligations.DecodeInvertsEncode : Prop :=
  ∀ i : Instr, i.wf = true → decode (encode i) = .ok i

/-- A raw operation that decodes is the encoding of what it decodes to, and that is well-formed: no two raw
operations mean the same (R100 to R104). That the decoder rejects an absent data buffer with `data_len` above 0, and a
record of the wrong format or of another procedure, is the model's choice (logs 22 and 23). -/
def Obligations.EncodeInvertsDecode : Prop :=
  ∀ (r : RawOp) (i : Instr), decode r = .ok i → encode i = r ∧ i.wf = true

/-- Words written out from the opcode table and the programs P1 and P5 of the test vectors decode to what they stand
for (R101, R102). -/
def Obligations.TableWordsDecode : Prop :=
  decodeTableWord 40 0x0000000000 = some .rdRxReady ∧
  decodeTableWord 40 0x0300000000 = some .rdRxLower32deq ∧
  decodeTableWord 40 0x0400000000 = some .rdTxStatus ∧
  decodeTableWord 40 0x0C000003FF = some (.wrTxStatus 0x3FF) ∧
  decodeTableWord 40 0x0DCAFEF00D = some (.wrTxUpper32 0xCAFEF00D) ∧
  decodeTableWord 40 0x0F00000001 = some (.wrTxQueueenable 1) ∧
  decodeTableWord 8 0x13 = some .callDrainPcieCore ∧
  decodeTableWord 8 0x16 = some .callCloseConnections ∧
  decodeTableWord 40 0x0000000001 = none ∧
  decodeTableWord 8 0x17 = none

/-- The verdict of every code, for both formats (R104): legal bus codes, reads with a value, call codes, reserved
selectors, reserved classes. The names of the errors for a code in the wrong format are the model's (log 23). -/
def Obligations.DecodeVerdicts : Prop :=
  (∀ (op : BitVec 8) (v : Word),
    if op.toNat < 0x08 then
      (if v = 0 then ∃ i, decode (.word (op ++ v)) = .ok i else decode (.word (op ++ v)) = .error .readWithValue)
    else if op.toNat < 0x10 then ∃ i, decode (.word (op ++ v)) = .ok i
    else if op.toNat < 0x17 then decode (.word (op ++ v)) = .error .wrongFormat
    else if op.toNat < 0x20 then decode (.word (op ++ v)) = .error .reservedSelector
    else decode (.word (op ++ v)) = .error .reservedClass) ∧
  (∀ (op : BitVec 8) (args : ArgRecord),
    if op.toNat < 0x10 then decode (.call op args) = .error .wrongFormat
    else if op.toNat < 0x17 then ∃ args' i, decode (.call op args') = .ok i ∧ (encode i).code = op
    else if op.toNat < 0x20 then decode (.call op args) = .error .reservedSelector
    else decode (.call op args) = .error .reservedClass)

/-! ### The status word and the masks -/

/-- Packing, bit by bit, every padding bit 0, and unpacking what was packed (R106, R107), for every well-formed
layout. -/
def Obligations.PackAndUnpackStatusWord : Prop :=
  ∀ (p : Params) (sop eop : BitVec 1) (be : Nat), p.wf → be < 2 ^ p.beW →
    (∀ i, i < 32 → (pack p sop eop be).getLsbD i =
      if i = p.sopPos then decide (sop = 1) else if i = p.eopPos then decide (eop = 1)
      else if p.beLo ≤ i ∧ i < p.beLo + p.beW then be.testBit (i - p.beLo) else false) ∧
    sopOf p (pack p sop eop be) = decide (sop = 1) ∧
    eopOf p (pack p sop eop be) = decide (eop = 1) ∧
    (beOf p (pack p sop eop be)).toNat = be

/-- `mask` returns `2^width - 1` in `W` bits, or faults `F_CONTRACT` where `width` exceeds `W` (R170), and changes
nothing else. -/
def Obligations.MaskCallReturnsMask : Prop :=
  ∀ (s : State) (width : Nat), s.fsm = .idle ∨ s.fsm = .mExec →
    (if width ≤ 32 then
      ∃ m : BitVec 32, m.toNat = 2 ^ width - 1 ∧
        exec (.callMask .w32 width) s = .next (s.returned 0x10 (.mask32 m) [])
    else exec (.callMask .w32 width) s = .next (s.faultedBy (.contract .w32 [width]))) ∧
    (if width ≤ 64 then
      ∃ m : BitVec 64, m.toNat = 2 ^ width - 1 ∧
        exec (.callMask .w64 width) s = .next (s.returned 0x10 (.mask64 m) [])
    else exec (.callMask .w64 width) s = .next (s.faultedBy (.contract .w64 [width])))

/-- `mask_enable_bits` returns bits `low` to `high`, or faults `F_CONTRACT` where `high < low` or `high > W - 1`
(R171), and changes nothing else. -/
def Obligations.MaskEnableCallReturnsMask : Prop :=
  ∀ (s : State) (high low : Nat), s.fsm = .idle ∨ s.fsm = .mbExec →
    (if low ≤ high ∧ high ≤ 31 then
      ∃ m : BitVec 32, m.toNat = (2 ^ (high + 1) - 1) - (2 ^ low - 1) ∧
        exec (.callMaskEnableBits .w32 high low) s = .next (s.returned 0x11 (.mask32 m) [])
    else exec (.callMaskEnableBits .w32 high low) s = .next (s.faultedBy (.contract .w32 [high, low]))) ∧
    (if low ≤ high ∧ high ≤ 63 then
      ∃ m : BitVec 64, m.toNat = (2 ^ (high + 1) - 1) - (2 ^ low - 1) ∧
        exec (.callMaskEnableBits .w64 high low) s = .next (s.returned 0x11 (.mask64 m) [])
    else exec (.callMaskEnableBits .w64 high low) s = .next (s.faultedBy (.contract .w64 [high, low])))

/-- The laws of the two mask functions (R172), at any word size. -/
def Obligations.MaskBitLaws : Prop :=
  (∀ W width i : Nat, width ≤ W → i < W → (maskValue W width).getLsbD i = decide (i < width)) ∧
  (∀ W high low i : Nat, low ≤ high → high < W → i < W →
    (maskEnableValue W high low).getLsbD i = decide (low ≤ i ∧ i ≤ high)) ∧
  (∀ W high low : Nat, low ≤ high → high < W →
    maskEnableValue W high low = maskValue W (high + 1) &&& ~~~ maskValue W low)

/-! ### Caller buffers -/

/-- A store inside the extent: the canonical form kept, the four bytes little-endian at the buffer's address, every
other byte as before, and the load gives the word back (R72, R73). -/
def Obligations.StoreThenLoadLittleEndian : Prop :=
  ∀ (b : Buffer) (o : Nat) (v : Word) (m : Memory), m.wf → o + 4 ≤ b.extent →
    ∃ m' : Memory, store32 b o v m = .ok m' ∧ m'.wf ∧ load32 b o m' = .ok v ∧
      (∀ i, i < 4 → m'.read (b.base + o + i) = v.extractLsb' (8 * i) 8) ∧
      (∀ a, a < b.base + o ∨ b.base + o + 4 ≤ a → m'.read a = m.read a)

/-- Past the extent every buffer access raises `F_BUF_OOB` (R72), and inside it `Load64` has the double-word at
`o + 4` as its upper half and the one at `o` as its lower (R72, R73). The offset recorded is the model's convention
(log 9). -/
def Obligations.BufferAccessBounds : Prop :=
  ∀ (b : Buffer) (o : Nat) (v : Word) (m : Memory),
    (b.extent < o + 4 → store32 b o v m = .error (.bufOob b o) ∧ load32 b o m = .error (.bufOob b o)) ∧
    (b.extent < o + 8 → load64 b o m = .error (.bufOob b o)) ∧
    (o + 8 ≤ b.extent → ∃ q : BitVec 64, load64 b o m = .ok q ∧
      load32 b (o + 4) m = .ok (q.extractLsb' 32 32) ∧ load32 b o m = .ok (q.extractLsb' 0 32))

/-- `SrcDW` (R75): bytes below the stated length are the buffer's, and one of them past the extent raises
`F_BUF_OOB` at the first such; nothing but where draws come from changes. The offset recorded is the model's
convention (log 9). -/
def Obligations.SourceDoubleWordBytes : Prop :=
  ∀ (b : Buffer) (len o : Nat) (s : State),
    (srcOwned b len o → ∃ v env, srcDW b len o s = .ok (v, { s with env := env }) ∧ srcMatches s.mem b len o v) ∧
    (∀ i, i < 4 → o + i < len → b.extent ≤ o + i → (∀ j, j < i → o + j < b.extent) →
      srcDW b len o s = .error (.bufOob b (o + i)))

/-- The bytes of a source double-word at or past the stated length are unconstrained: every word that agrees with
the buffer below the length is what some draws give (R75). -/
def Obligations.DrawnBytesUnconstrained : Prop :=
  ∀ (b : Buffer) (len o : Nat) (s : State) (w : Word), srcOwned b len o → srcMatches s.mem b len o w →
    ∃ env t, srcDW b len o { s with env := env } = .ok (w, t)

/-! ### Register operations -/

/-- `RD RX_READY` (R141, R140): 1 exactly when RXF holds an entry. -/
def Obligations.RdRxReadyReadsOccupancy : Prop :=
  ∀ s : State, s.fsm = .idle ∨ s.fsm = .bExec →
    (s.rxf = [] → exec .rdRxReady s = .next (s.returned 0x00 (.word 0) [.busRd .rxReady 0])) ∧
    (s.rxf ≠ [] → exec .rdRxReady s = .next (s.returned 0x00 (.word 1) [.busRd .rxReady 1]))

/-- `RD RX_STATUS` and `RD RX_UPPER32` (R142, R143): the head's words, nothing dequeued; `F_RX_EMPTY` when empty. -/
def Obligations.RdRxStatusUpperReadHead : Prop :=
  ∀ s : State, s.fsm = .idle ∨ s.fsm = .bExec →
    (∀ e rest, s.rxf = e :: rest →
      exec .rdRxStatus s = .next (s.returned 0x01 (.word e.st) [.busRd .rxStatus e.st]) ∧
      exec .rdRxUpper32 s = .next (s.returned 0x02 (.word e.up) [.busRd .rxUpper32 e.up])) ∧
    (s.rxf = [] →
      exec .rdRxStatus s = .next (s.faultedBy (.rxEmpty .rxStatus)) ∧
      exec .rdRxUpper32 s = .next (s.faultedBy (.rxEmpty .rxUpper32)))

/-- `RD RX_LOWER32DEQ` (R144): the head's lower word, and the head removed; `F_RX_EMPTY` when empty. -/
def Obligations.RdRxLower32deqDequeues : Prop :=
  ∀ s : State, s.fsm = .idle ∨ s.fsm = .bExec →
    (∀ e rest, s.rxf = e :: rest →
      exec .rdRxLower32deq s =
        .next (({ s with rxf := rest } : State).returned 0x03 (.word e.lo) [.busRd .rxLower32deq e.lo])) ∧
    (s.rxf = [] → exec .rdRxLower32deq s = .next (s.faultedBy (.rxEmpty .rxLower32deq)))

/-- `WR TX_STATUS` and `WR TX_UPPER32` (R145, R146): the latch holds the word, whatever it held. -/
def Obligations.WrTxStatusUpperLatch : Prop :=
  ∀ (s : State) (v : Word), s.fsm = .idle ∨ s.fsm = .bExec →
    exec (.wrTxStatus v) s =
      .next (({ s with txs := some v } : State).returned 0x0C (.word 0) [.busWr .txStatus v]) ∧
    exec (.wrTxUpper32 v) s =
      .next (({ s with txu := some v } : State).returned 0x0D (.word 0) [.busWr .txUpper32 v])

/-- `WR TX_LOWER32SEND` (R147): the latch check, then the room, then one entry appended and both latches unwritten. -/
def Obligations.WrTxLower32sendPushes : Prop :=
  ∀ (s : State) (v : Word), s.fsm = .idle ∨ s.fsm = .bExec →
    (s.txs = none ∨ s.txu = none →
      ∃ a b, exec (.wrTxLower32send v) s = .next (s.faultedBy (.txLatch a b))) ∧
    (∀ st up, s.txs = some st → s.txu = some up →
      (s.txf.length = s.cfg.txDepth → exec (.wrTxLower32send v) s = .next (s.faultedBy .txFull)) ∧
      (s.txf.length ≠ s.cfg.txDepth →
        exec (.wrTxLower32send v) s =
          .next (({ s with txf := s.txf ++ [⟨st, up, v⟩], txs := none, txu := none } : State).returned 0x0E (.word 0)
            [.busWr .txLower32send v])))

/-- `WR TX_QUEUEENABLE` (R148): the gate takes 0 or 1; any other value faults `F_QE_VALUE`. -/
def Obligations.WrTxQueueenableSetsGate : Prop :=
  ∀ (s : State) (v : Word), s.fsm = .idle ∨ s.fsm = .bExec →
    if v = 0 then
      exec (.wrTxQueueenable v) s =
        .next (({ s with qe := 0 } : State).returned 0x0F (.word 0) [.busWr .txQueueenable 0])
    else if v = 1 then
      exec (.wrTxQueueenable v) s =
        .next (({ s with qe := 1 } : State).returned 0x0F (.word 0) [.busWr .txQueueenable 1])
    else exec (.wrTxQueueenable v) s = .next (s.faultedBy (.qeValue v))

/-- Wrong-direction bus operations (R149): `F_ILLEGAL_ACCESS`, which records the op code (R282), and no device state
changes. -/
def Obligations.WrongDirectionFaults : Prop :=
  ∀ (s : State) (v : Word), s.fsm = .idle ∨ s.fsm = .bExec →
    exec .rdTxStatus s = .next (s.faultedBy (.illegalAccess 0x04)) ∧
    exec .rdTxUpper32 s = .next (s.faultedBy (.illegalAccess 0x05)) ∧
    exec .rdTxLower32send s = .next (s.faultedBy (.illegalAccess 0x06)) ∧
    exec .rdTxQueueenable s = .next (s.faultedBy (.illegalAccess 0x07)) ∧
    exec (.wrRxReady v) s = .next (s.faultedBy (.illegalAccess 0x08)) ∧
    exec (.wrRxStatus v) s = .next (s.faultedBy (.illegalAccess 0x09)) ∧
    exec (.wrRxUpper32 v) s = .next (s.faultedBy (.illegalAccess 0x0A)) ∧
    exec (.wrRxLower32deq v) s = .next (s.faultedBy (.illegalAccess 0x0B))

/-! ### The receive path -/

/-- `wait_for_tlp` at its entry (R181, R182): the checks in order, then cursor 0 and the deadline check. That no deadline
is out of the counter's range, so that R181's check on it never fails, is the model's choice (log 17). -/
def Obligations.WaitEntryChecks : Prop :=
  ∀ (s : State) (b : Buffer) (cap deadline : Nat), s.fsm = .idle ∨ s.fsm = .wInit →
    if b.base % 8 ≠ 0 then exec (.callWaitForTlp b cap deadline) s = .next (s.refusedFor .bufAlign)
    else if cap ≥ 2 ^ 32 then exec (.callWaitForTlp b cap deadline) s = .next (s.refusedFor .lenRange)
    else exec (.callWaitForTlp b cap deadline) s = .next { s with work := { cursor := some 0 }, fsm := .wDl }

/-- The deadline predicate (R192): not past below, past above, both answers at equality. -/
def Obligations.DeadlinePredicate : Prop :=
  ∀ (s : State) (c deadline : Nat),
    (c < deadline → (s.past c deadline).1 = false) ∧
    (deadline < c → (s.past c deadline).1 = true) ∧
    (c = deadline → ∀ answer : Bool, ∃ env, (({ s with env := env } : State).past c deadline).1 = answer)

/-- The counter (R296): a read is never below the last and becomes the last; every such value can be read; and no
step of the machine lets the last value fall. -/
def Obligations.CounterReadsMonotone : Prop :=
  (∀ s : State, s.readCounter.2.cntLast = some s.readCounter.1 ∧
    s.readCounter.2.trace = s.trace ++ [.cntRd s.readCounter.1]) ∧
  (∀ (s : State) (c : Nat), (∀ l, s.cntLast = some l → l ≤ c) ↔
    ∃ env, ({ s with env := env } : State).readCounter.1 = c) ∧
  (∀ s t : State, step s = .next t → ∀ l, s.cntLast = some l → ∃ l', t.cntLast = some l' ∧ l ≤ l')

/-- The two deadline checks of `wait_for_tlp` (R183, R190): the counter is read, and `TIMEOUT` is returned or the
next state entered as the deadline predicate says (R192). -/
def Obligations.WaitDeadlineChecks : Prop :=
  ∀ (s : State) (b : Buffer) (cap deadline : Nat) (next : Fsm),
    (s.fsm = .wDl ∧ next = .wRdy) ∨ (s.fsm = .wDl2 ∧ next = .wEop) →
    ∃ (c : Nat) (past : Bool) (env : Env),
      (∀ l, s.cntLast = some l → l ≤ c) ∧ (c < deadline → past = false) ∧ (deadline < c → past = true) ∧
      exec (.callWaitForTlp b cap deadline) s =
        .next (if past then ({ s with cntLast := some c, env := env }).returned 0x12 .timeout [.cntRd c]
          else { s with cntLast := some c, env := env, trace := s.trace ++ [.cntRd c], fsm := next })

/-- The ready poll and the three reads of an entry (R184 to R187): each its register, its working register and its
next state; on an empty FIFO the reads fault `F_RX_EMPTY`. -/
def Obligations.WaitPollsAndReadsEntry : Prop :=
  ∀ (s : State) (b : Buffer) (cap deadline : Nat),
    (s.fsm = .wRdy →
      (s.rxf = [] → exec (.callWaitForTlp b cap deadline) s =
        .next { s with fsm := .wDl, trace := s.trace ++ [.busRd .rxReady 0] }) ∧
      (s.rxf ≠ [] → exec (.callWaitForTlp b cap deadline) s =
        .next { s with fsm := .wSt, trace := s.trace ++ [.busRd .rxReady 1] })) ∧
    (∀ e rest, s.rxf = e :: rest →
      (s.fsm = .wSt → exec (.callWaitForTlp b cap deadline) s =
        .next { s with
          fsm := .wUp, work := { s.work with s := some e.st }
          trace := s.trace ++ [.busRd .rxStatus e.st] }) ∧
      (s.fsm = .wUp → exec (.callWaitForTlp b cap deadline) s =
        .next { s with
          fsm := .wLo, work := { s.work with u := some e.up }
          trace := s.trace ++ [.busRd .rxUpper32 e.up] }) ∧
      (s.fsm = .wLo → exec (.callWaitForTlp b cap deadline) s =
        .next { s with
          fsm := .wApp, work := { s.work with l := some e.lo }, rxf := rest
          trace := s.trace ++ [.busRd .rxLower32deq e.lo] })) ∧
    (s.rxf = [] →
      (s.fsm = .wSt → exec (.callWaitForTlp b cap deadline) s = .next (s.faultedBy (.rxEmpty .rxStatus))) ∧
      (s.fsm = .wUp → exec (.callWaitForTlp b cap deadline) s = .next (s.faultedBy (.rxEmpty .rxUpper32))) ∧
      (s.fsm = .wLo → exec (.callWaitForTlp b cap deadline) s = .next (s.faultedBy (.rxEmpty .rxLower32deq))))

/-- `W_APP` with room for both words (R188): the cursor restarts at a start of packet, the lower word is stored at
it, the upper word above, and the cursor moves on by 8; every other byte of memory is as before. -/
def Obligations.WaitAppendStores : Prop :=
  ∀ (s : State) (b : Buffer) (cap deadline cursor c : Nat) (st up lo : Word),
    s.fsm = .wApp → s.mem.wf → s.work.cursor = some cursor → s.work.s = some st → s.work.u = some up →
    s.work.l = some lo → c = (if sopOf s.cfg st then 0 else cursor) → c + 8 ≤ b.extent →
    ∃ m : Memory, m.wf ∧
      (∀ i, i < 4 → m.read (b.base + c + i) = byteOf lo i ∧ m.read (b.base + c + 4 + i) = byteOf up i) ∧
      (∀ a, a < b.base + c ∨ b.base + c + 8 ≤ a → m.read a = s.mem.read a) ∧
      exec (.callWaitForTlp b cap deadline) s =
        .next { s with mem := m, work := { s.work with cursor := some (c + 8) }, fsm := .wOvf }

/-- `W_APP` without room (R188, R294 (b)): with no room for the lower word nothing is stored; with room for it alone
it is stored, then the upper store faults. That the cursor is then as before the step is the model's reading of
R281 (log 10), and the offset recorded its convention (log 9). -/
def Obligations.WaitAppendOutOfBounds : Prop :=
  ∀ (s : State) (b : Buffer) (cap deadline cursor c : Nat) (st up lo : Word),
    s.fsm = .wApp → s.mem.wf → s.work.cursor = some cursor → s.work.s = some st → s.work.u = some up →
    s.work.l = some lo → c = (if sopOf s.cfg st then 0 else cursor) →
    (b.extent < c + 4 → exec (.callWaitForTlp b cap deadline) s = .next (s.faultedBy (.bufOob b c))) ∧
    (c + 4 ≤ b.extent → b.extent < c + 8 →
      ∃ m : Memory, m.wf ∧ (∀ i, i < 4 → m.read (b.base + c + i) = byteOf lo i) ∧
        (∀ a, a < b.base + c ∨ b.base + c + 4 ≤ a → m.read a = s.mem.read a) ∧
        exec (.callWaitForTlp b cap deadline) s =
          .next (({ s with mem := m } : State).faultedBy (.bufOob b (c + 4))))

/-- `W_OVF` (R189): the word count against the byte capacity, literally. -/
def Obligations.WaitOverflowTest : Prop :=
  ∀ (s : State) (b : Buffer) (cap deadline cursor : Nat), s.fsm = .wOvf → s.work.cursor = some cursor →
    if cursor / 4 > cap then
      exec (.callWaitForTlp b cap deadline) s = .next (s.returned 0x12 .overflow [.diagOverflow])
    else exec (.callWaitForTlp b cap deadline) s = .next { s with fsm := .wDl2 }

/-- `W_EOP` (R191): at an end of packet the cursor is the byte count returned; else the next entry. -/
def Obligations.WaitEndOfPacket : Prop :=
  ∀ (s : State) (b : Buffer) (cap deadline cursor : Nat) (st : Word),
    s.fsm = .wEop → s.work.cursor = some cursor → s.work.s = some st →
    if st.getLsbD s.cfg.eopPos then
      exec (.callWaitForTlp b cap deadline) s = .next (s.returned 0x12 (.bytes cursor) [])
    else exec (.callWaitForTlp b cap deadline) s = .next { s with fsm := .wSt }

/-- The received byteenable and padding influence no rule (R107, D6): in every state of `wait_for_tlp` with a status word
read, two states that differ only in those bits of it take the same step, and still differ in the status word alone, if
at all. -/
def Obligations.ReceivedByteenableIgnored : Prop :=
  ∀ (s : State) (b : Buffer) (cap deadline : Nat) (st st' : Word), s.work.s = some st →
    st'.getLsbD s.cfg.sopPos = st.getLsbD s.cfg.sopPos → st'.getLsbD s.cfg.eopPos = st.getLsbD s.cfg.eopPos →
    ∀ t, exec (.callWaitForTlp b cap deadline) s = .next t →
      ∃ t', exec (.callWaitForTlp b cap deadline) { s with work := { s.work with s := some st' } } = .next t' ∧
        { t' with work := { t'.work with s := none } } = { t with work := { t.work with s := none } } ∧
        (t'.work.s = t.work.s ∨ (t.work.s = some st ∧ t'.work.s = some st'))

/-- The states of `drain_pcie_core` (R196 to R198): the ready test, the three reads, the idle steps. -/
def Obligations.DrainStates : Prop :=
  ∀ s : State,
    (s.fsm = .dRdy →
      (s.rxf = [] → exec .callDrainPcieCore s = .next (s.returned 0x13 .unit [.busRd .rxReady 0])) ∧
      (s.rxf ≠ [] → exec .callDrainPcieCore s =
        .next { s with fsm := .dSt, trace := s.trace ++ [.busRd .rxReady 1] })) ∧
    (s.fsm = .idle →
      (s.rxf = [] → exec .callDrainPcieCore s = .next (s.returned 0x13 .unit [.busRd .rxReady 0])) ∧
      (s.rxf ≠ [] → exec .callDrainPcieCore s =
        .next { s with fsm := .dSt, work := {}, trace := s.trace ++ [.busRd .rxReady 1] })) ∧
    (∀ e rest, s.rxf = e :: rest →
      (s.fsm = .dSt → exec .callDrainPcieCore s =
        .next { s with
          fsm := .dUp, work := { s.work with s := some e.st }
          trace := s.trace ++ [.busRd .rxStatus e.st] }) ∧
      (s.fsm = .dUp → exec .callDrainPcieCore s =
        .next { s with
          fsm := .dLo, work := { s.work with u := some e.up }
          trace := s.trace ++ [.busRd .rxUpper32 e.up] }) ∧
      (s.fsm = .dLo → exec .callDrainPcieCore s =
        .next { s with
          fsm := .dSpin, work := { s.work with l := some e.lo, k := some 0 }, rxf := rest
          trace := s.trace ++ [.busRd .rxLower32deq e.lo] })) ∧
    (∀ k, s.fsm = .dSpin → s.work.k = some k →
      if k < s.cfg.drainSpin then
        exec .callDrainPcieCore s = .next { s with work := { s.work with k := some (k + 1) } }
      else exec .callDrainPcieCore s = .next { s with fsm := .dRdy })

/-- A drain that no link step interrupts empties RXF and returns `UNIT`, its trace the reads of R199's example, and
changes nothing else. The count of framer steps takes the start and the entry state as one step (log 3). -/
def Obligations.DrainEmptiesFifo : Prop :=
  ∀ s : State, s.fsm = .idle → s.fetch = .op .callDrainPcieCore →
    framerRun (s.rxf.length * (5 + s.cfg.drainSpin) + 1) s =
      .next (({ s with rxf := [] } : State).returned 0x13 .unit (s.rxf.flatMap discardEvents ++ [.busRd .rxReady 0]))

/-- A packet whose entries all stand in RXF is reassembled (R193 (b), (c), (e)): with the counter below the deadline
throughout and room enough, `BYTES` counts the last attempt, whose bytes stand in the buffer, lower half first;
each entry is read status, upper, lower, and removed; the entries after the end of packet stay in RXF; no byte outside
the buffer's first part changes. The count of framer steps takes the start and the entry state as one step (log 3). -/
def Obligations.WaitReassemblesPacket : Prop :=
  ∀ (s : State) (b : Buffer) (cap deadline : Nat) (before : List Entry) (last : Entry) (rest : List Entry),
    s.fsm = .idle → s.fetch = .op (.callWaitForTlp b cap deadline) → s.mem.wf →
    b.base % 8 = 0 → cap < 2 ^ 32 → s.rxf = before ++ last :: rest →
    (∀ e ∈ before, eopOf s.cfg e.st = false) → eopOf s.cfg last.st = true →
    2 * (before.length + 1) ≤ cap → 8 * (before.length + 1) ≤ b.extent →
    before.length + 2 ≤ s.env.ticks.length →
    s.cntLast.getD 0 + (s.env.ticks.take (before.length + 2)).sum < deadline →
    ∃ t : State, framerRun (7 * before.length + 10) s = .next t ∧ t.fsm = .idle ∧ t.hp = s.hp + 1 ∧ t.rxf = rest ∧
      t.work.ret = some (.bytes (8 * (attemptOf s.cfg (before ++ [last])).length)) ∧
      (∀ o, o < 8 * (attemptOf s.cfg (before ++ [last])).length →
        t.mem.read (b.base + o) = payloadByte (attemptOf s.cfg (before ++ [last])) o) ∧
      (∀ a, a < b.base ∨ b.base + 8 * (before.length + 1) ≤ a → t.mem.read a = s.mem.read a) ∧
      t.trace = s.trace ++ [.cntRd (s.cntLast.getD 0 + s.env.ticks.headD 0), .busRd .rxReady 1] ++
        receiveEvents (s.cntLast.getD 0 + s.env.ticks.headD 0) s.env.ticks.tail (before ++ [last]) ++
        [.ret 0x12 (.bytes (8 * (attemptOf s.cfg (before ++ [last])).length))]

/-! ### The transmit path -/

/-- The three writes of a quadword (R220, R221), under either transmit procedure: status, upper half, lower half,
each its own step, then the continuation. What `F_TX_LATCH` records is the model's convention (log 9). -/
def Obligations.QuadEmissionWrites : Prop :=
  ∀ (s : State) (i : Instr),
    (∃ header headerLen data dataLen alignment, i = .callSendTlp header headerLen data dataLen alignment) ∨
      (∃ tlp tlpLen, i = .callSendTlpUnaligned tlp tlpLen) →
    (∀ qs qe, s.fsm = .qSt → s.work.qs = some qs → s.work.qe = some qe →
      exec i s = .next { s with
        fsm := .qUp, txs := some (pack s.cfg qs qe s.cfg.txBe)
        trace := s.trace ++ [.busWr .txStatus (pack s.cfg qs qe s.cfg.txBe)] }) ∧
    (∀ qu, s.fsm = .qUp → s.work.qu = some qu →
      exec i s = .next { s with fsm := .qLo, txu := some qu, trace := s.trace ++ [.busWr .txUpper32 qu] }) ∧
    (∀ ql kont, s.fsm = .qLo → s.work.ql = some ql → s.work.kont = some kont →
      (s.txs = none ∨ s.txu = none → exec i s = .next (s.faultedBy (.txLatch s.txs.isNone s.txu.isNone))) ∧
      (∀ st up, s.txs = some st → s.txu = some up →
        (s.txf.length = s.cfg.txDepth → exec i s = .next (s.faultedBy .txFull)) ∧
        (s.txf.length ≠ s.cfg.txDepth →
          exec i s = .next { s with
            fsm := kont, txf := s.txf ++ [⟨st, up, ql⟩], txs := none, txu := none
            trace := s.trace ++ [.busWr .txLower32send ql] })))

/-- One emission pushes exactly one entry, `(Pack(qs, qe, TX_BE), qu, ql)`, and goes on at the continuation (R220). -/
def Obligations.QuadEmissionPushesOneEntry : Prop :=
  ∀ (s : State) (i : Instr) (qs qe : BitVec 1) (qu ql : Word) (kont : Fsm),
    (∃ header headerLen data dataLen alignment, i = .callSendTlp header headerLen data dataLen alignment) ∨
      (∃ tlp tlpLen, i = .callSendTlpUnaligned tlp tlpLen) →
    s.fetch = .op i → s.fsm = .qSt → s.work.qs = some qs → s.work.qe = some qe → s.work.qu = some qu →
    s.work.ql = some ql → s.work.kont = some kont → s.txf.length < s.cfg.txDepth →
    framerRun 3 s = .next { s with
      fsm := kont, txs := none, txu := none, txf := s.txf ++ [(⟨pack s.cfg qs qe s.cfg.txBe, qu, ql⟩ : Entry)],
      trace := s.trace ++ quadEvents (⟨pack s.cfg qs qe s.cfg.txBe, qu, ql⟩ : Entry) }

/-- The preconditions of `send_tlp`, in order (R223): the first that fails is the reason, and nothing else happens. That
an absent data buffer with `data_len` above 0 is aligned is the model's choice (log 22); that a data buffer's base is
checked at `data_len = 0` too is R76 read together with R223 (log 33). -/
def Obligations.SendTlpRefusals : Prop :=
  ∀ (s : State) (header : Buffer) (data : Option Buffer) (headerLen dataLen alignment : Nat),
    s.fsm = .idle ∨ s.fsm = .sQw0 →
    let outcome := exec (.callSendTlp header headerLen data dataLen alignment) s
    if headerLen ≠ 12 ∧ headerLen ≠ 16 then outcome = .next (s.refusedFor .hdrLen)
    else if dataLen % 4 ≠ 0 then outcome = .next (s.refusedFor .dataLen)
    else if dataLen ≥ 2 ^ 31 then outcome = .next (s.refusedFor .lenRange)
    else if alignment ≠ s.cfg.alignedCode ∧ alignment ≠ s.cfg.unalignedCode then
      outcome = .next (s.refusedFor .alignMode)
    else if header.base % 8 ≠ 0 ∨ (dataBuffer data).base % 8 ≠ 0 then
      outcome = .next (s.refusedFor .bufAlign)
    else ∃ t : State, outcome = .next t ∧ t.refused = s.refused ∧ t.fsm ≠ .refused

/-- `S_QW0` (R226): the seed quadword is header double-words 0 and 1, startofpacket set, before any hold; a header
the caller owns too little of faults. `data` may be absent when `data_len = 0` (R222). -/
def Obligations.SendSeedQuadword : Prop :=
  ∀ (s : State) (header : Buffer) (data : Option Buffer) (headerLen dataLen alignment : Nat),
    s.fsm = .idle ∨ s.fsm = .sQw0 → headerLen = 12 ∨ headerLen = 16 → dataLen % 4 = 0 → dataLen < 2 ^ 31 →
    alignment = s.cfg.alignedCode ∨ alignment = s.cfg.unalignedCode → header.base % 8 = 0 →
    (data = none ∧ dataLen = 0) ∨ (∃ d, data = some d ∧ d.base % 8 = 0) →
    (8 ≤ header.extent →
      exec (.callSendTlp header headerLen data dataLen alignment) s =
        .next { s with
          fsm := .qSt
          work := {
            qs := some 1, qe := some 0
            qu := some (wordAt s.mem (header.base + 4)), ql := some (wordAt s.mem header.base), kont := some .sHold } }) ∧
    (header.extent < 8 → ∃ o,
      exec (.callSendTlp header headerLen data dataLen alignment) s = .next (s.faultedBy (.bufOob header o)))

/-- The hold, the branch and the release of `send_tlp` (R227, R228, R233). -/
def Obligations.SendHoldBranchRelease : Prop :=
  ∀ (s : State) (header : Buffer) (data : Option Buffer) (headerLen dataLen alignment : Nat),
    (s.fsm = .sHold → exec (.callSendTlp header headerLen data dataLen alignment) s =
      .next { s with qe := 0, fsm := .sBr, trace := s.trace ++ [.busWr .txQueueenable 0] }) ∧
    (s.fsm = .sBr → exec (.callSendTlp header headerLen data dataLen alignment) s =
      .next { s with fsm := if headerLen = 12 ∧ alignment = s.cfg.unalignedCode then .sM else .sG }) ∧
    (s.fsm = .sRel → exec (.callSendTlp header headerLen data dataLen alignment) s =
      .next (({ s with qe := 1 } : State).returned 0x14 .success [.busWr .txQueueenable 1]))

/-- `S_M` (R229): header double-word 2 above data double-word 0, endofpacket iff `data_len ≤ 4`; bytes past a stated
length are drawn (R75), and a byte below it that the caller does not own faults. That an absent data buffer owns no byte
is the model's choice (log 22). -/
def Obligations.SendMergedQuadword : Prop :=
  ∀ (s : State) (header : Buffer) (data : Option Buffer) (headerLen dataLen alignment : Nat), s.fsm = .sM →
    (srcOwned header headerLen 8 → srcOwned (dataBuffer data) dataLen 0 →
      ∃ hi lo env, srcMatches s.mem header headerLen 8 hi ∧ srcMatches s.mem (dataBuffer data) dataLen 0 lo ∧
        exec (.callSendTlp header headerLen data dataLen alignment) s =
          .next { s with
            env := env, fsm := .qSt
            work := { s.work with
              bi := some 4, qs := some 0, qe := some (if dataLen ≤ 4 then 1 else 0)
              qu := some hi, ql := some lo, kont := some .sUl } }) ∧
    (¬ (srcOwned header headerLen 8 ∧ srcOwned (dataBuffer data) dataLen 0) →
      ∃ b o, (b = header ∨ b = dataBuffer data) ∧
        exec (.callSendTlp header headerLen data dataLen alignment) s = .next (s.faultedBy (.bufOob b o)))

/-- `S_G` (R231): the second header quadword as it is, endofpacket iff `data_len = 0`. -/
def Obligations.SendGenericQuadword : Prop :=
  ∀ (s : State) (header : Buffer) (data : Option Buffer) (headerLen dataLen alignment : Nat), s.fsm = .sG →
    (srcOwned header headerLen 12 → srcOwned header headerLen 8 →
      ∃ hi lo env, srcMatches s.mem header headerLen 12 hi ∧ srcMatches s.mem header headerLen 8 lo ∧
        exec (.callSendTlp header headerLen data dataLen alignment) s =
          .next { s with
            env := env, fsm := .qSt
            work := { s.work with
              bi := some 0, qs := some 0, qe := some (if dataLen = 0 then 1 else 0)
              qu := some hi, ql := some lo, kont := some .sAl } }) ∧
    (¬ (srcOwned header headerLen 12 ∧ srcOwned header headerLen 8) →
      ∃ o, exec (.callSendTlp header headerLen data dataLen alignment) s = .next (s.faultedBy (.bufOob header o)))

/-- `S_UL` and `S_AL` (R230, R232): while data remains, the double-words at `bi` and `bi + 4`, lower half first,
endofpacket on the quadword that covers the rest; then the release. The half order is the spec's decision D17; that an
absent data buffer owns no byte is the model's choice (log 22). -/
def Obligations.SendDataQuadwords : Prop :=
  ∀ (s : State) (header : Buffer) (data : Option Buffer) (headerLen dataLen alignment bi : Nat),
    s.fsm = .sUl ∨ s.fsm = .sAl → s.work.bi = some bi →
    (dataLen ≤ bi → exec (.callSendTlp header headerLen data dataLen alignment) s =
      .next { s with fsm := .sRel }) ∧
    (bi < dataLen → srcOwned (dataBuffer data) dataLen (bi + 4) → srcOwned (dataBuffer data) dataLen bi →
      ∃ hi lo env, srcMatches s.mem (dataBuffer data) dataLen (bi + 4) hi ∧
        srcMatches s.mem (dataBuffer data) dataLen bi lo ∧
        exec (.callSendTlp header headerLen data dataLen alignment) s =
          .next { s with
            env := env, fsm := .qSt
            work := { s.work with
              bi := some (bi + 8), qs := some 0, qe := some (if bi + 8 ≥ dataLen then 1 else 0)
              qu := some hi, ql := some lo, kont := some s.fsm } }) ∧
    (bi < dataLen → ¬ (srcOwned (dataBuffer data) dataLen (bi + 4) ∧ srcOwned (dataBuffer data) dataLen bi) →
      ∃ o, exec (.callSendTlp header headerLen data dataLen alignment) s =
        .next (s.faultedBy (.bufOob (dataBuffer data) o)))

/-- A whole `send_tlp` that no link step interrupts (R234, R235): the stated number of quadwords, startofpacket on the
first alone and endofpacket on the last alone, the bus writes in their order with the hold after the first quadword
and the release after the last. The count of framer steps takes the start and the entry state as one step (log 3). -/
def Obligations.SendTlpBurst : Prop :=
  ∀ (s : State) (header : Buffer) (data : Option Buffer) (headerLen dataLen alignment Q : Nat),
    s.fsm = .idle → s.fetch = .op (.callSendTlp header headerLen data dataLen alignment) →
    headerLen = 12 ∨ headerLen = 16 → dataLen % 4 = 0 → dataLen < 2 ^ 31 →
    alignment = s.cfg.alignedCode ∨ alignment = s.cfg.unalignedCode → header.base % 8 = 0 →
    headerLen ≤ header.extent →
    (data = none ∧ dataLen = 0) ∨ (∃ d, data = some d ∧ d.base % 8 = 0 ∧ dataLen ≤ d.extent) →
    Q = sendCount (decide (headerLen = 12 ∧ alignment = s.cfg.unalignedCode)) dataLen →
    s.txf.length + Q ≤ s.cfg.txDepth →
    ∃ (t : State) (first : Entry) (others : List Entry),
      framerRun (4 * Q + 4) s = .next t ∧ others.length + 1 = Q ∧ framedBurst s.cfg (first :: others) ∧
      t.txf = s.txf ++ first :: others ∧ t.fsm = .idle ∧ t.hp = s.hp + 1 ∧ t.work.ret = some .success ∧
      t.qe = 1 ∧ t.rxf = s.rxf ∧ t.mem = s.mem ∧
      t.trace = s.trace ++ quadEvents first ++ [.busWr .txQueueenable 0] ++ others.flatMap quadEvents ++
        [.busWr .txQueueenable 1, .ret 0x14 .success]

/-- `send_tlp_unaligned` at its entry and at its end (R237, R238, R240): the checks in order, the rounded quadword
count, the hook and the result. That the base is checked at `tlp_len = 0` too is R76 read together with R237
(log 33). -/
def Obligations.UnalignedEntryAndHook : Prop :=
  ∀ (s : State) (tlp : Buffer) (tlpLen : Nat),
    (s.fsm = .idle ∨ s.fsm = .uInit →
      if tlpLen ≥ 2 ^ 31 - 7 then exec (.callSendTlpUnaligned tlp tlpLen) s = .next (s.refusedFor .lenRange)
      else if tlp.base % 8 ≠ 0 then
        exec (.callSendTlpUnaligned tlp tlpLen) s = .next (s.refusedFor .bufAlign)
      else exec (.callSendTlpUnaligned tlp tlpLen) s =
        .next { s with work := { n := some ((tlpLen + 7) / 8), q := some 0 }, fsm := .uLoop }) ∧
    (s.fsm = .uHook →
      exec (.callSendTlpUnaligned tlp tlpLen) s = .next (s.returned 0x15 .success [.hookTs]))

/-- `U_LOOP` (R239): quadword `q`, startofpacket on the first, endofpacket on the last, the upper half zero under the
literal pad condition and then not read; after the last, the hook. -/
def Obligations.UnalignedLoopQuadword : Prop :=
  ∀ (s : State) (tlp : Buffer) (tlpLen q n : Nat), s.fsm = .uLoop → s.work.q = some q → s.work.n = some n →
    (n ≤ q → exec (.callSendTlpUnaligned tlp tlpLen) s = .next { s with fsm := .uHook }) ∧
    (q < n → srcOwned tlp tlpLen (8 * q) → (q + 1 < tlpLen → srcOwned tlp tlpLen (8 * q + 4)) →
      ∃ hi lo env, srcMatches s.mem tlp tlpLen (8 * q) lo ∧
        (tlpLen ≤ q + 1 → hi = 0) ∧ (q + 1 < tlpLen → srcMatches s.mem tlp tlpLen (8 * q + 4) hi) ∧
        exec (.callSendTlpUnaligned tlp tlpLen) s =
          .next { s with
            env := env, fsm := .qSt
            work := { s.work with
              q := some (q + 1), qs := some (if q = 0 then 1 else 0), qe := some (if q = n - 1 then 1 else 0)
              qu := some hi, ql := some lo, kont := some .uLoop } }) ∧
    (q < n → ¬ (srcOwned tlp tlpLen (8 * q) ∧ (q + 1 < tlpLen → srcOwned tlp tlpLen (8 * q + 4))) →
      ∃ o, exec (.callSendTlpUnaligned tlp tlpLen) s = .next (s.faultedBy (.bufOob tlp o)))

/-- A whole `send_tlp_unaligned` that no link step interrupts (R239 to R241): `ceil(tlp_len / 8)` entries framed as a
burst, the buffer's bytes in order, lower half first, the gate untouched, then the hook. The count of framer steps
takes the start and the entry state as one step (log 3). -/
def Obligations.UnalignedBurst : Prop :=
  ∀ (s : State) (tlp : Buffer) (tlpLen n : Nat),
    s.fsm = .idle → s.fetch = .op (.callSendTlpUnaligned tlp tlpLen) → tlpLen < 2 ^ 31 - 7 →
    tlp.base % 8 = 0 → tlpLen ≤ tlp.extent → n = (tlpLen + 7) / 8 →
    s.txf.length + n ≤ s.cfg.txDepth →
    ∃ (t : State) (es : List Entry), framerRun (4 * n + 3) s = .next t ∧ es.length = n ∧ framedBurst s.cfg es ∧
      t.txf = s.txf ++ es ∧ (∀ o, o < tlpLen → payloadByte es o = s.mem.read (tlp.base + o)) ∧
      (tlpLen = 1 → ∀ e ∈ es, e.up = 0) ∧ t.fsm = .idle ∧ t.hp = s.hp + 1 ∧ t.work.ret = some .success ∧
      t.qe = s.qe ∧ t.rxf = s.rxf ∧ t.mem = s.mem ∧
      t.trace = s.trace ++ es.flatMap quadEvents ++ [.hookTs, .ret 0x15 .success]

/-! ### Lifecycle and links -/

/-- `close_connections` (R270): `UNIT`, and nothing else. -/
def Obligations.CloseConnectionsReturns : Prop :=
  ∀ s : State, s.fsm = .idle ∨ s.fsm = .ccExec →
    exec .callCloseConnections s = .next (s.returned 0x16 .unit [])

/-- The receive link (R150): with room it moves the head of `rx_stream` to the tail of RXF; without room, or with
nothing to deliver, it waits. An endless stream's further entries are free values (log 16). -/
def Obligations.ReceiveLinkDelivers : Prop :=
  ∀ s : State,
    (∀ e rest, s.rxStream = e :: rest → s.rxf.length < s.cfg.rxDepth →
      rxLinkStep s = { s with rxStream := rest, rxf := s.rxf ++ [e], trace := s.trace ++ [.linkRx e] }) ∧
    (s.rxf.length ≥ s.cfg.rxDepth → rxLinkStep s = s) ∧
    (s.rxStream = [] → s.rxEndless = false → rxLinkStep s = s) ∧
    (s.rxStream = [] → s.rxEndless = true → s.rxf.length < s.cfg.rxDepth →
      ∃ e env, rxLinkStep s = { s with env := env, rxf := s.rxf ++ [e], trace := s.trace ++ [.linkRx e] })

/-- The transmit link (R151) and its loopback form (R152): under the hold, or with TXF empty, it waits; else it
removes the head, whatever its framing bits, and in a loopback run with room in RXF appends it there. -/
def Obligations.TransmitLinkRemoves : Prop :=
  ∀ s : State,
    (s.qe = 0 ∨ s.txf = [] → txLinkStep s = s) ∧
    (∀ e rest, s.qe = 1 → s.txf = e :: rest →
      if s.loopback = false then txLinkStep s = { s with txf := rest, trace := s.trace ++ [.linkTx e] }
      else if s.rxf.length < s.cfg.rxDepth then
        txLinkStep s =
          { s with txf := rest, rxf := s.rxf ++ [e], trace := s.trace ++ [.linkTx e, .linkRx e] }
      else txLinkStep s = s)

/-! ### The machine -/

/-- On the framer's turn a step is `exec` of the operation at `hp`, in the state whose turn has been taken, which
differs only in where draws come from (R32, R33). Whose turn it is, how a loaded word comes to run as the very next step
and the zero record of a call's table word are the model's choices (logs 4, 1 and 24). -/
def Obligations.StepRunsDecodedOperation : Prop :=
  (∀ (s : State) (raw : RawOp) (i : Instr),
    s.nextTurn.1 = .framer → s.fsm ≠ .faulted → s.fsm ≠ .refused → s.program[s.hp]? = some raw → decode raw = .ok i →
    ∃ env, s.nextTurn.2 = { s with env := env } ∧ step s = exec i { s with env := env }) ∧
  (∀ (s : State) (nbits w : Nat) (i : Instr), decodeTableWord nbits w = some i →
    ∃ env, step (s.withFetchWord nbits w) = exec i { s.withFetchWord nbits w with env := env })

/-- An operation that does not decode is refused `RF_UNKNOWN_OP`, before any effect: reserved codes and reads with a
value as the spec says (R104, R290, R291), an absent data buffer, a wrong format and a wrong record as the model
chooses (logs 22 and 23). -/
def Obligations.UnknownOperationRefused : Prop :=
  ∀ (s : State) (raw : RawOp) (e : DecodeError), s.fsm = .idle → s.program[s.hp]? = some raw →
    decode raw = .error e → framerStep s = .next (s.refusedFor .unknownOp)

/-- The framer has no step when `FAULTED`, `REFUSED` or at the end of the program (R33, R281, R290), and every agent
may have the next turn, the links keeping their steps in every state of the framer (R281, R294 (e)). That a turn
without a step leaves the state as it is, and how the next turn is drawn, are the model's choices (log 4). -/
def Obligations.HaltedFramerHasNoStep : Prop :=
  (∀ s : State, s.fsm = .faulted ∨ s.fsm = .refused ∨ (s.fsm = .idle ∧ s.hp = s.program.length) →
    framerStep s = .next s) ∧
  (∀ (s : State) (a : Agent), ∃ env env', ({ s with env := env } : State).nextTurn = (a, { s with env := env' })) ∧
  (∀ s : State, (s.nextTurn.1 = .rxLink → step s = .next (rxLinkStep s.nextTurn.2)) ∧
    (s.nextTurn.1 = .txLink → step s = .next (txLinkStep s.nextTurn.2)))

/-- The launch state (R320), for every launch parameters with a well-formed configuration; with any other the run is
refused `RF_CONFIG` (R9). -/
def Obligations.LaunchState : Prop :=
  ∀ l : Launch,
    (l.cfg.wf → (State.launch l).fsm = .idle ∧ (State.launch l).refused = none) ∧
    (¬ l.cfg.wf → (State.launch l).fsm = .refused ∧ (State.launch l).refused = some .config) ∧
    (State.launch l).hp = 0 ∧ (State.launch l).work = {} ∧
    (l.rxf0.length ≤ l.cfg.rxDepth → (State.launch l).rxf = l.rxf0) ∧
    (l.txf0.length ≤ l.cfg.txDepth → (State.launch l).txf = l.txf0) ∧
    (State.launch l).txs = none ∧ (State.launch l).txu = none ∧ (State.launch l).qe = l.qe ∧
    (l.loopback = false → (State.launch l).rxStream = l.rxStream ∧ (State.launch l).rxEndless = l.rxEndless) ∧
    (State.launch l).cntLast = none ∧
    ((l.cells.map Prod.fst).Nodup → ∀ c ∈ l.cells, (State.launch l).mem.read c.1 = c.2) ∧
    (State.launch l).trace = [] ∧ (State.launch l).fault = none

/-- Every launch meets the invariant, State.reset among them. -/
def Obligations.LaunchMeetsInvariant : Prop :=
  State.reset.Inv ∧ ∀ l : Launch, (State.launch l).Inv

/-- Every step keeps the invariant: canonical memory, FIFOs within their depths, marks and control position in
agreement, no register read unwritten, registers unwritten between calls, the cursor a multiple of 8. -/
def Obligations.StepKeepsInvariant : Prop :=
  ∀ s t : State, s.Inv → step s = .next t → t.Inv

/-- From a state that meets the invariant a step always answers a next state: the model's own stops are never
reached, whatever the agents, the draws and the operands. -/
def Obligations.StepNeverStops : Prop :=
  ∀ s : State, s.Inv → ∃ t, step s = .next t

/-- What a step leaves for good (R48, R49, R34, R33): the parameters and the program stay, the trace only grows, the
marks are sticky, `hp` never falls. -/
def Obligations.StepRecordsOnlyGrow : Prop :=
  ∀ s t : State, s.Inv → step s = .next t →
    t.cfg = s.cfg ∧ t.program = s.program ∧ t.loopback = s.loopback ∧ (∃ es, t.trace = s.trace ++ es) ∧
    (∀ c, s.fault = some c → t.fault = some c) ∧ (∀ r, s.refused = some r → t.refused = some r) ∧
    (t.hp = s.hp ∨ t.hp = s.hp + 1)

/-- Only a `TX_QUEUEENABLE` write moves the gate (R35 (c), R43), and only the raw write and the hold and release of
`send_tlp` make one (R227, R233, R237). -/
def Obligations.QueueGateWriters : Prop :=
  ∀ (i : Instr) (s t : State), exec i s = .next t →
    t.qe = s.qe ∨ (∃ v, i = .wrTxQueueenable v ∧ (v = 0 ∨ v = 1) ∧ t.qe = v.setWidth 1) ∨
      (∃ header headerLen data dataLen alignment, i = .callSendTlp header headerLen data dataLen alignment ∧
        ((s.fsm = .sHold ∧ t.qe = 0) ∨ (s.fsm = .sRel ∧ t.qe = 1)))

/-- Both FIFOs keep order and change by one entry at most in a step: the head removed or an entry put at the tail
(R82); TXF loses an entry only under `QE = 1` (R43, R151). -/
def Obligations.FifosKeepOrder : Prop :=
  ∀ s t : State, step s = .next t →
    (t.rxf = s.rxf ∨ (∃ e, s.rxf = e :: t.rxf) ∨ (∃ e, t.rxf = s.rxf ++ [e])) ∧
    (t.txf = s.txf ∨ (s.qe = 1 ∧ ∃ e, s.txf = e :: t.txf) ∨ (∃ e, t.txf = s.txf ++ [e]))

/-- The timestamp hook runs in `send_tlp_unaligned` alone, at its end, once (R222, R240): no other step appends its
event. -/
def Obligations.HookOnlyAtEndOfUnaligned : Prop :=
  ∀ (i : Instr) (s t : State), exec i s = .next t →
    (∃ es, t.trace = s.trace ++ es ∧ Event.hookTs ∉ es) ∨
      (∃ tlp tlpLen, i = .callSendTlpUnaligned tlp tlpLen ∧ s.fsm = .uHook ∧
        t.trace = s.trace ++ [.hookTs, .ret 0x15 .success])

/-! ### Runs -/

/-- A `wait_for_tlp` call ends in every fair run: where the counter is unbounded (R296) and the framer's turns never
cease, it returns, faults or is refused, whatever the links, the draws and the entries (R271, R332). That a call that
faults or is refused has ended too is the model's choice (log 34); that draws are made anew at each step of a run, and
the premise on the framer's turns, are its choices as well (log 32). -/
def Obligations.WaitEndsUnderFairCounter : Prop :=
  ∀ (r : Nat → State) (draws : Nat → Env) (b : Buffer) (cap deadline : Nat),
    IsRun r draws → TurnsFair r draws .framer → CounterFair r → (r 0).Inv →
    (r 0).fetch = .op (.callWaitForTlp b cap deadline) → ∃ k, callEnded (r 0) (r k)

/-- Under the fairness premise on the transmit link (R272, R332) the head of TXF leaves it, at a step whose one event
is its `LinkTx` (R151), in a run that is no loopback run and whose queue gate stays released. That draws are made anew
at each step of a run is the model's choice (log 32). -/
def Obligations.TransmitLinkDrainsUnderFairTurns : Prop :=
  ∀ (r : Nat → State) (draws : Nat → Env) (e : Entry) (rest : List Entry),
    IsRun r draws → TurnsFair r draws .txLink → (r 0).loopback = false → (∀ k, (r k).qe = 1) →
    (r 0).txf = e :: rest →
    ∃ k, (r k).txf = e :: (r (k + 1)).txf ∧ (r (k + 1)).trace = (r k).trace ++ [.linkTx e]
end

