-- ==== Sys2Proof/Laws/Decode.lean ====
section
/-! SUPPORT. The two fields of a format B word read back, and the codes of the encoder. -/

namespace Sys2Proof

/-- The code of a format B word: its upper eight bits (R101). -/
@[simp] theorem code_of_word (op : BitVec 8) (v : Word) : (op ++ v).extractLsb' 32 8 = op := by
  apply BitVec.eq_of_getLsbD_eq
  intro i hi
  rw [BitVec.getLsbD_extractLsb', BitVec.getLsbD_append]
  simp [hi]

/-- The value of a format B word: its lower 32 bits (R101). -/
@[simp] theorem value_of_word (op : BitVec 8) (v : Word) : (op ++ v).extractLsb' 0 32 = v := by
  apply BitVec.eq_of_getLsbD_eq
  intro i hi
  rw [BitVec.getLsbD_extractLsb', BitVec.getLsbD_append]
  simp [hi]

@[simp] theorem encodeBus_code (d : BitVec 1) (r : Reg) (v : Word) : (encodeBus d r v).code = busCode d r := by
  simp [encodeBus, RawOp.code]

@[simp] theorem regOfNumber_number (r : Reg) : Reg.ofNumber (BitVec.ofNat 3 r.number) = r := by cases r <;> rfl

end Sys2Proof
end

