-- ==== Sys2Proof/Laws/Memory.lean ====
section
/-! SUPPORT. Host memory: a byte read back, other bytes alone, the canonical form kept. -/

namespace Sys2Proof.Machine

@[simp] theorem Memory.read_nil (x : Nat) : Memory.read [] x = Memory.unlisted := rfl

theorem Memory.wf_nil : Memory.wf [] := ⟨List.Pairwise.nil, by simp⟩

theorem Memory.wf_tail {c : Host.Cell} {m : Memory} (h : Memory.wf (c :: m)) : Memory.wf m :=
  ⟨(List.pairwise_cons.1 h.1).2, fun d hd => h.2 d (List.mem_cons_of_mem _ hd)⟩

/-- Below every listed address a byte reads as unlisted. -/
theorem Memory.read_of_forall_ne {m : Memory} {x : Nat} (h : ∀ c ∈ m, x ≠ c.1) : m.read x = Memory.unlisted := by
  induction m with
  | nil => rfl
  | cons c m ih =>
    obtain ⟨a, b⟩ := c
    have hx : x ≠ a := h (a, b) (by simp)
    simp only [Memory.read, hx, if_false]
    exact ih fun d hd => h d (List.mem_cons_of_mem _ hd)

/-- Every address of a memory after a write is the written one or was listed. -/
theorem Memory.mem_write {m : Memory} {x : Nat} {v : Byte} {c : Host.Cell} (h : c ∈ m.write x v) :
    (c = (x, v) ∧ v ≠ Memory.unlisted) ∨ c ∈ m := by
  induction m with
  | nil =>
    simp only [Memory.write] at h
    split at h <;> simp_all
  | cons d m ih =>
    obtain ⟨a, b⟩ := d
    simp only [Memory.write] at h
    split at h
    · split at h <;> simp_all
    · split at h
      · split at h
        · simp_all
        · simp_all; tauto
      · rcases List.mem_cons.1 h with rfl | h
        · simp
        · rcases ih h with h | h <;> simp [h]

/-- A write keeps the canonical form. -/
theorem Memory.wf_write {m : Memory} (h : m.wf) (x : Nat) (v : Byte) : (m.write x v).wf := by
  refine ⟨?_, fun c hc => ?_⟩
  · induction m with
    | nil => simp only [Memory.write]; split <;> simp
    | cons d m ih =>
      obtain ⟨a, b⟩ := d
      have hp := List.pairwise_cons.1 h.1
      have hw := Memory.wf_tail h
      simp only [Memory.write]
      split
      case isTrue hlt =>
        split
        · exact h.1
        · refine List.pairwise_cons.2 ⟨fun c hc => ?_, h.1⟩
          rcases List.mem_cons.1 hc with rfl | hc
          · exact hlt
          · exact lt_trans hlt (hp.1 c hc)
      case isFalse hlt =>
        split
        case isTrue heq =>
          split
          · exact hp.2
          · exact List.pairwise_cons.2 ⟨fun c hc => heq ▸ hp.1 c hc, hp.2⟩
        case isFalse hne =>
          refine List.pairwise_cons.2 ⟨fun c hc => ?_, ih hw⟩
          rcases Memory.mem_write hc with ⟨rfl, _⟩ | hc
          · show a < x; omega
          · exact hp.1 c hc
  · rcases Memory.mem_write hc with ⟨rfl, hv⟩ | hc
    · exact hv
    · exact h.2 c hc

/-- Read after write: the written byte at its address, every other byte as before. -/
theorem Memory.read_write {m : Memory} (h : m.wf) (x y : Nat) (v : Byte) :
    (m.write x v).read y = if y = x then v else m.read y := by
  induction m with
  | nil => simp only [Memory.write]; split <;> simp_all [Memory.read]
  | cons d m ih =>
    obtain ⟨a, b⟩ := d
    have hp := (List.pairwise_cons.1 h.1).1
    have below : ∀ z, z ≤ a → Memory.read m z = Memory.unlisted := fun z hz =>
      Memory.read_of_forall_ne fun c hc => by
        have hlt : a < c.1 := hp c hc
        omega
    simp only [Memory.write]
    split
    case isTrue hlt =>
      split
      case isTrue hv =>
        subst hv
        by_cases hy : y = x
        · subst hy
          simp [Memory.read, Nat.ne_of_lt hlt, below y (Nat.le_of_lt hlt)]
        · simp [hy]
      case isFalse => simp [Memory.read]
    case isFalse hlt =>
      split
      case isTrue heq =>
        subst heq
        split
        case isTrue hv =>
          subst hv
          by_cases hy : y = x
          · subst hy; simp [below y le_rfl]
          · simp [Memory.read, hy]
        case isFalse =>
          by_cases hy : y = x <;> simp [Memory.read, hy]
      case isFalse hne =>
        simp only [Memory.read, ih (Memory.wf_tail h)]
        by_cases hy : y = a
        · subst hy; simp [Ne.symm hne]
        · simp [hy]

theorem Memory.wf_writeBytes {m : Memory} (h : m.wf) (x : Nat) (vs : List Byte) : (m.writeBytes x vs).wf := by
  induction vs generalizing m x with
  | nil => exact h
  | cons v vs ih => exact ih (Memory.wf_write h x v) (x + 1)

/-- Bytes written one after the other: each at its place, every other byte as before. -/
theorem Memory.read_writeBytes {m : Memory} (h : m.wf) (x y : Nat) (vs : List Byte) :
    (m.writeBytes x vs).read y = if x ≤ y then (vs[y - x]?).getD (m.read y) else m.read y := by
  induction vs generalizing m x with
  | nil => simp [Memory.writeBytes]
  | cons v vs ih =>
    simp only [Memory.writeBytes, ih (Memory.wf_write h x v), Memory.read_write h]
    by_cases hxy : x ≤ y
    · by_cases he : y = x
      · subst he; simp
      · have h1 : x + 1 ≤ y := by omega
        have h2 : y - x = (y - (x + 1)) + 1 := by omega
        simp [h1, hxy, he, h2]
    · have h1 : ¬ x + 1 ≤ y := by omega
      have h2 : y ≠ x := by omega
      simp [h1, hxy, h2]

theorem Memory.wf_foldl_write (cells : List Host.Cell) {m : Memory} (h : m.wf) :
    (cells.foldl (fun m c => m.write c.1 c.2) m).wf := by
  induction cells generalizing m with
  | nil => exact h
  | cons c cells ih => exact ih (Memory.wf_write h c.1 c.2)

theorem Memory.wf_ofCells (cells : List Host.Cell) : (Memory.ofCells cells).wf :=
  Memory.wf_foldl_write cells Memory.wf_nil

end Sys2Proof.Machine
end

