-- ==== Sys2Proof/Laws/State.lean ====
section
/-! SUPPORT. One lemma per field and update of the state, so that no proof unfolds a record update. -/

namespace Sys2Proof.Machine

section updates

variable (s : State) (e : Event) (f : Fsm) (c : FaultCode) (r : RefuseReason) (op : BitVec 8) (v : Result)

@[simp] theorem emit_cfg : (s.emit e).cfg = s.cfg := rfl
@[simp] theorem emit_loopback : (s.emit e).loopback = s.loopback := rfl
@[simp] theorem emit_program : (s.emit e).program = s.program := rfl
@[simp] theorem emit_hp : (s.emit e).hp = s.hp := rfl
@[simp] theorem emit_fsm : (s.emit e).fsm = s.fsm := rfl
@[simp] theorem emit_work : (s.emit e).work = s.work := rfl
@[simp] theorem emit_rxf : (s.emit e).rxf = s.rxf := rfl
@[simp] theorem emit_txf : (s.emit e).txf = s.txf := rfl
@[simp] theorem emit_txs : (s.emit e).txs = s.txs := rfl
@[simp] theorem emit_txu : (s.emit e).txu = s.txu := rfl
@[simp] theorem emit_qe : (s.emit e).qe = s.qe := rfl
@[simp] theorem emit_mem : (s.emit e).mem = s.mem := rfl
@[simp] theorem emit_rxStream : (s.emit e).rxStream = s.rxStream := rfl
@[simp] theorem emit_rxEndless : (s.emit e).rxEndless = s.rxEndless := rfl
@[simp] theorem emit_cntLast : (s.emit e).cntLast = s.cntLast := rfl
@[simp] theorem emit_trace : (s.emit e).trace = s.trace ++ [e] := rfl
@[simp] theorem emit_fault : (s.emit e).fault = s.fault := rfl
@[simp] theorem emit_refused : (s.emit e).refused = s.refused := rfl
@[simp] theorem emit_env : (s.emit e).env = s.env := rfl

@[simp] theorem goto_cfg : (s.goto f).cfg = s.cfg := rfl
@[simp] theorem goto_loopback : (s.goto f).loopback = s.loopback := rfl
@[simp] theorem goto_program : (s.goto f).program = s.program := rfl
@[simp] theorem goto_hp : (s.goto f).hp = s.hp := rfl
@[simp] theorem goto_fsm : (s.goto f).fsm = f := rfl
@[simp] theorem goto_work : (s.goto f).work = s.work := rfl
@[simp] theorem goto_rxf : (s.goto f).rxf = s.rxf := rfl
@[simp] theorem goto_txf : (s.goto f).txf = s.txf := rfl
@[simp] theorem goto_txs : (s.goto f).txs = s.txs := rfl
@[simp] theorem goto_txu : (s.goto f).txu = s.txu := rfl
@[simp] theorem goto_qe : (s.goto f).qe = s.qe := rfl
@[simp] theorem goto_mem : (s.goto f).mem = s.mem := rfl
@[simp] theorem goto_rxStream : (s.goto f).rxStream = s.rxStream := rfl
@[simp] theorem goto_rxEndless : (s.goto f).rxEndless = s.rxEndless := rfl
@[simp] theorem goto_cntLast : (s.goto f).cntLast = s.cntLast := rfl
@[simp] theorem goto_trace : (s.goto f).trace = s.trace := rfl
@[simp] theorem goto_fault : (s.goto f).fault = s.fault := rfl
@[simp] theorem goto_refused : (s.goto f).refused = s.refused := rfl
@[simp] theorem goto_env : (s.goto f).env = s.env := rfl

@[simp] theorem raise_cfg : (s.raise c).cfg = s.cfg := rfl
@[simp] theorem raise_loopback : (s.raise c).loopback = s.loopback := rfl
@[simp] theorem raise_program : (s.raise c).program = s.program := rfl
@[simp] theorem raise_hp : (s.raise c).hp = s.hp := rfl
@[simp] theorem raise_fsm : (s.raise c).fsm = .faulted := rfl
@[simp] theorem raise_work : (s.raise c).work = s.work := rfl
@[simp] theorem raise_rxf : (s.raise c).rxf = s.rxf := rfl
@[simp] theorem raise_txf : (s.raise c).txf = s.txf := rfl
@[simp] theorem raise_txs : (s.raise c).txs = s.txs := rfl
@[simp] theorem raise_txu : (s.raise c).txu = s.txu := rfl
@[simp] theorem raise_qe : (s.raise c).qe = s.qe := rfl
@[simp] theorem raise_mem : (s.raise c).mem = s.mem := rfl
@[simp] theorem raise_rxStream : (s.raise c).rxStream = s.rxStream := rfl
@[simp] theorem raise_rxEndless : (s.raise c).rxEndless = s.rxEndless := rfl
@[simp] theorem raise_cntLast : (s.raise c).cntLast = s.cntLast := rfl
@[simp] theorem raise_trace : (s.raise c).trace = s.trace := rfl
@[simp] theorem raise_fault : (s.raise c).fault = some c := rfl
@[simp] theorem raise_refused : (s.raise c).refused = s.refused := rfl
@[simp] theorem raise_env : (s.raise c).env = s.env := rfl

@[simp] theorem refuse_cfg : (s.refuse r).cfg = s.cfg := rfl
@[simp] theorem refuse_loopback : (s.refuse r).loopback = s.loopback := rfl
@[simp] theorem refuse_program : (s.refuse r).program = s.program := rfl
@[simp] theorem refuse_hp : (s.refuse r).hp = s.hp := rfl
@[simp] theorem refuse_fsm : (s.refuse r).fsm = .refused := rfl
@[simp] theorem refuse_work : (s.refuse r).work = s.work := rfl
@[simp] theorem refuse_rxf : (s.refuse r).rxf = s.rxf := rfl
@[simp] theorem refuse_txf : (s.refuse r).txf = s.txf := rfl
@[simp] theorem refuse_txs : (s.refuse r).txs = s.txs := rfl
@[simp] theorem refuse_txu : (s.refuse r).txu = s.txu := rfl
@[simp] theorem refuse_qe : (s.refuse r).qe = s.qe := rfl
@[simp] theorem refuse_mem : (s.refuse r).mem = s.mem := rfl
@[simp] theorem refuse_rxStream : (s.refuse r).rxStream = s.rxStream := rfl
@[simp] theorem refuse_rxEndless : (s.refuse r).rxEndless = s.rxEndless := rfl
@[simp] theorem refuse_cntLast : (s.refuse r).cntLast = s.cntLast := rfl
@[simp] theorem refuse_trace : (s.refuse r).trace = s.trace := rfl
@[simp] theorem refuse_fault : (s.refuse r).fault = s.fault := rfl
@[simp] theorem refuse_refused : (s.refuse r).refused = some r := rfl
@[simp] theorem refuse_env : (s.refuse r).env = s.env := rfl

@[simp] theorem finish_cfg : (s.finish op v).cfg = s.cfg := rfl
@[simp] theorem finish_loopback : (s.finish op v).loopback = s.loopback := rfl
@[simp] theorem finish_program : (s.finish op v).program = s.program := rfl
@[simp] theorem finish_hp : (s.finish op v).hp = s.hp + 1 := rfl
@[simp] theorem finish_fsm : (s.finish op v).fsm = .idle := rfl
@[simp] theorem finish_work : (s.finish op v).work = { ret := some v } := rfl
@[simp] theorem finish_rxf : (s.finish op v).rxf = s.rxf := rfl
@[simp] theorem finish_txf : (s.finish op v).txf = s.txf := rfl
@[simp] theorem finish_txs : (s.finish op v).txs = s.txs := rfl
@[simp] theorem finish_txu : (s.finish op v).txu = s.txu := rfl
@[simp] theorem finish_qe : (s.finish op v).qe = s.qe := rfl
@[simp] theorem finish_mem : (s.finish op v).mem = s.mem := rfl
@[simp] theorem finish_rxStream : (s.finish op v).rxStream = s.rxStream := rfl
@[simp] theorem finish_rxEndless : (s.finish op v).rxEndless = s.rxEndless := rfl
@[simp] theorem finish_cntLast : (s.finish op v).cntLast = s.cntLast := rfl
@[simp] theorem finish_trace : (s.finish op v).trace = s.trace ++ [.ret op v] := rfl
@[simp] theorem finish_fault : (s.finish op v).fault = s.fault := rfl
@[simp] theorem finish_refused : (s.finish op v).refused = s.refused := rfl
@[simp] theorem finish_env : (s.finish op v).env = s.env := rfl

end updates

/-- A turn changes nothing but where the draws come from. -/
theorem nextTurn_eq (s : State) : ∃ env, s.nextTurn.2 = { s with env := env } := ⟨_, rfl⟩

theorem drawTick_eq (s : State) : ∃ env, s.drawTick.2 = { s with env := env } := ⟨_, rfl⟩

theorem drawTie_eq (s : State) : ∃ env, s.drawTie.2 = { s with env := env } := ⟨_, rfl⟩

theorem drawByte_eq (s : State) : ∃ env, s.drawByte.2 = { s with env := env } := ⟨_, rfl⟩

theorem drawEntry_eq (s : State) : ∃ env, s.drawEntry.2 = { s with env := env } := ⟨_, rfl⟩

/-- The parameters of reset are well-formed, whatever the implementation's are (log 5). -/
theorem params_wf : Config.params.wf := by
  unfold Config.params
  split
  · assumption
  · decide

/-- Reset is the launch with no program and the open parameters free (R320). -/
theorem reset_eq_launch :
    State.reset = State.launch
      { cfg := Config.params, rxf0 := Config.rxf0, txf0 := Config.txf0, qe := Config.resetQe, rxEndless := true } := by
  have h := params_wf
  simp only [State.reset, State.launch, if_pos h]
  rfl

end Sys2Proof.Machine
end

