-- ==== Sys2Proof/Laws/Ops.lean ====
section
/-! SUPPORT. The shared operations: for each, once, everything it can do. -/

namespace Sys2Proof.Machine

@[simp] theorem atEntry_idle {entry : Fsm} {s t : State} (h : s.fsm = .idle) : atEntry entry s t = .next t := by
  simp [atEntry, h]

theorem atEntry_next {entry : Fsm} {s t t' : State} (h : atEntry entry s t = .next t') :
    (s.fsm = .idle ∨ s.fsm = entry) ∧ t' = t := by
  unfold atEntry at h
  split at h
  · exact ⟨‹_›, by cases h; rfl⟩
  · cases h

@[simp] theorem readWork_some {α : Type} (a : α) (f : α → StepOutcome) : readWork (some a) f = f a := rfl

@[simp] theorem readWork_none {α : Type} (f : α → StepOutcome) : readWork none f = .fault .unwrittenRegister := rfl

theorem readWork_next {α : Type} {o : Option α} {f : α → StepOutcome} {t : State} (h : readWork o f = .next t) :
    ∃ a, o = some a ∧ f a = .next t := by
  cases o with
  | none => cases h
  | some a => exact ⟨a, rfl, h⟩

/-- A counter read (R296): one value, at least the last, which becomes the last, and one event. -/
theorem readCounter_spec (s : State) :
    ∃ c env, s.readCounter = (c, { s with cntLast := some c, trace := s.trace ++ [.cntRd c], env := env }) ∧
      ∀ l, s.cntLast = some l → l ≤ c := by
  refine ⟨_, _, rfl, fun l hl => ?_⟩
  simp [hl]

/-- The deadline predicate (R192): decided away from equality, and it changes only where draws come from. -/
theorem past_spec (s : State) (c d : Nat) :
    ∃ b env, s.past c d = (b, { s with env := env }) ∧ (c < d → b = false) ∧ (d < c → b = true) := by
  unfold State.past
  split
  · exact ⟨false, s.env, rfl, fun _ => rfl, fun h => by omega⟩
  · split
    · exact ⟨true, s.env, rfl, fun h => by omega, fun _ => rfl⟩
    · exact ⟨_, _, rfl, fun h => by omega, fun h => by omega⟩

/-- A device read changes nothing but RXF, and RXF only by the removal of its head (R71, R141 to R144). -/
theorem deviceRead_cases {r : Reg} {s t : State} {v : Word} (h : deviceRead r s = .ok (v, t)) :
    (r = .rxReady ∧ v = readyWord s.rxf ∧ t = s) ∨
      ∃ e rest, s.rxf = e :: rest ∧
        ((r = .rxStatus ∧ v = e.st ∧ t = s) ∨ (r = .rxUpper32 ∧ v = e.up ∧ t = s) ∨
          (r = .rxLower32deq ∧ v = e.lo ∧ t = { s with rxf := rest })) := by
  cases r <;> simp only [deviceRead] at h
  case rxReady => cases h; exact .inl ⟨rfl, rfl, rfl⟩
  case rxStatus =>
    split at h
    · cases h
    · cases h; exact .inr ⟨_, _, ‹_›, .inl ⟨rfl, rfl, rfl⟩⟩
  case rxUpper32 =>
    split at h
    · cases h
    · cases h; exact .inr ⟨_, _, ‹_›, .inr (.inl ⟨rfl, rfl, rfl⟩)⟩
  case rxLower32deq =>
    split at h
    · cases h
    · cases h; exact .inr ⟨_, _, ‹_›, .inr (.inr ⟨rfl, rfl, rfl⟩)⟩
  all_goals cases h

/-- A push (R147): both latches held words and there was room; one entry more, both latches unwritten. -/
theorem devicePush_ok {v : Word} {s t : State} (h : devicePush v s = .ok t) :
    ∃ st up, s.txs = some st ∧ s.txu = some up ∧ s.txf.length ≠ s.cfg.txDepth ∧
      t = { s with txf := s.txf ++ [⟨st, up, v⟩], txs := none, txu := none } := by
  unfold devicePush at h
  split at h
  · split at h
    · cases h
    · cases h; exact ⟨_, _, ‹_›, ‹_›, ‹_›, rfl⟩
  · cases h

/-- A device write changes one latch, the gate, or TXF and both latches (R145 to R148). -/
theorem deviceWrite_cases {r : Reg} {v : Word} {s t : State} (h : deviceWrite r v s = .ok t) :
    (r = .txStatus ∧ t = { s with txs := some v }) ∨ (r = .txUpper32 ∧ t = { s with txu := some v }) ∨
      (r = .txLower32send ∧ ∃ st up, s.txs = some st ∧ s.txu = some up ∧ s.txf.length ≠ s.cfg.txDepth ∧
        t = { s with txf := s.txf ++ [⟨st, up, v⟩], txs := none, txu := none }) ∨
      (r = .txQueueenable ∧ (v = 0 ∨ v = 1) ∧ t = { s with qe := v.setWidth 1 }) := by
  cases r <;> simp only [deviceWrite] at h
  case txStatus => cases h; exact .inl ⟨rfl, rfl⟩
  case txUpper32 => cases h; exact .inr (.inl ⟨rfl, rfl⟩)
  case txLower32send => exact .inr (.inr (.inl ⟨rfl, devicePush_ok h⟩))
  case txQueueenable =>
    split at h
    · cases h; exact .inr (.inr (.inr ⟨rfl, ‹_›, rfl⟩))
    · cases h
  all_goals cases h

/-- A bus read in a framer state: a fault taken in the state before, or the rest with the value and one event
more. -/
theorem onBusRead_cases (r : Reg) (s : State) (rest : Word → State → State) :
    (∃ c, deviceRead r s = .error c ∧ onBusRead r s rest = s.raise c) ∨
      ∃ v t, deviceRead r s = .ok (v, t) ∧ onBusRead r s rest = rest v (t.emit (.busRd r v)) := by
  unfold onBusRead
  split
  · exact .inl ⟨_, ‹_›, rfl⟩
  · exact .inr ⟨_, _, ‹_›, rfl⟩

/-- A bus write in a framer state: a fault taken in the state before, or the rest with one event more. -/
theorem onBusWrite_cases (r : Reg) (v : Word) (s : State) (rest : State → State) :
    (∃ c, deviceWrite r v s = .error c ∧ onBusWrite r v s rest = s.raise c) ∨
      ∃ t, deviceWrite r v s = .ok t ∧ onBusWrite r v s rest = rest (t.emit (.busWr r v)) := by
  unfold onBusWrite
  split
  · exact .inl ⟨_, ‹_›, rfl⟩
  · exact .inr ⟨_, ‹_›, rfl⟩

/-- The first failing check (R294 (c)): none when all hold, else the reason of one that does not. -/
theorem firstFailing_eq_none {l : List (Bool × RefuseReason)} : firstFailing l = none ↔ ∀ c ∈ l, c.1 = true := by
  induction l with
  | nil => simp [firstFailing]
  | cons c l ih =>
    obtain ⟨ok, r⟩ := c
    cases ok <;> simp [firstFailing, ih]

end Sys2Proof.Machine
end

