-- ==== Sys2Proof/Laws/Operands.lean ====
section
/-! SUPPORT. The operand forms: what each can answer, and what it leaves as it was. -/

namespace Sys2Proof.Machine

/-- A store that answers a memory had room in the buffer, and wrote four bytes from its address up. -/
theorem store32_ok {b : Buffer} {o : Nat} {v : Word} {m m' : Memory} (h : store32 b o v m = .ok m') :
    o + 4 ≤ b.extent ∧ m' = m.writeBytes (bufAddr b o) [byteOf v 0, byteOf v 1, byteOf v 2, byteOf v 3] := by
  unfold store32 at h
  split at h
  · cases h
  · cases h; exact ⟨by omega, rfl⟩

/-- A store keeps the canonical form. -/
theorem store32_wf {b : Buffer} {o : Nat} {v : Word} {m m' : Memory} (hm : m.wf) (h : store32 b o v m = .ok m') :
    m'.wf := by
  rw [(store32_ok h).2]; exact Memory.wf_writeBytes hm _ _

/-- A source byte (R75) changes nothing but where draws come from. -/
theorem srcByte_ok {b : Buffer} {len o : Nat} {s t : State} {v : Byte} (h : srcByte b len o s = .ok (v, t)) :
    (∃ env, t = { s with env := env }) ∧ (o < len → o < b.extent ∧ v = s.mem.read (bufAddr b o)) := by
  unfold srcByte at h
  split at h
  · split at h
    · cases h; exact ⟨⟨_, rfl⟩, fun _ => ⟨‹_›, rfl⟩⟩
    · cases h
  · cases h; exact ⟨drawByte_eq s, fun hlt => absurd hlt ‹_›⟩

/-- A source double-word (R75) changes nothing but where draws come from. -/
theorem srcDW_ok {b : Buffer} {len o : Nat} {s t : State} {v : Word} (h : srcDW b len o s = .ok (v, t)) :
    ∃ env, t = { s with env := env } := by
  simp only [srcDW, bind, Except.bind, pure, Except.pure] at h
  split at h; · cases h
  next h0 =>
  split at h; · cases h
  next h1 =>
  split at h; · cases h
  next h2 =>
  split at h; · cases h
  next h3 =>
  cases h
  obtain ⟨e0, h0⟩ := (srcByte_ok h0).1
  obtain ⟨e1, h1⟩ := (srcByte_ok h1).1
  obtain ⟨e2, h2⟩ := (srcByte_ok h2).1
  obtain ⟨e3, h3⟩ := (srcByte_ok h3).1
  exact ⟨e3, by rw [h3, h2, h1, h0]⟩

/-- The upper half of an unaligned quadword (R239) changes nothing but where draws come from. -/
theorem unalignedUpper_ok {tlp : Buffer} {tlpLen q : Nat} {s t : State} {v : Word}
    (h : unalignedUpper tlp tlpLen q s = .ok (v, t)) : ∃ env, t = { s with env := env } := by
  unfold unalignedUpper at h
  split at h
  · cases h; exact ⟨_, rfl⟩
  · exact srcDW_ok h

/-- Two double-words for a quadword: a fault taken in the state before, or the rest with both, only where draws come
from changed. -/
theorem withQuad_cases (upper lower : State → Except FaultCode (Word × State)) (s : State)
    (rest : Word → Word → State → State) :
    (∃ c, withQuad upper lower s rest = s.raise c) ∨
      ∃ hi t lo t', upper s = .ok (hi, t) ∧ lower t = .ok (lo, t') ∧ withQuad upper lower s rest = rest hi lo t' := by
  unfold withQuad
  split
  · exact .inl ⟨_, rfl⟩
  · split
    · exact .inl ⟨_, rfl⟩
    · exact .inr ⟨_, _, _, _, ‹_›, ‹_›, rfl⟩

end Sys2Proof.Machine
end

