-- ==== Sys2Proof/Laws/Step.lean ====
section
/-! SUPPORT. Once, everything the framer's turn and the machine's step can do. -/

namespace Sys2Proof.Machine

/-- What the framer's turn answers when it answers a next state: nothing to do, a refused operation, or one state of
the operation at `hp`. -/
theorem framerStep_next {s t : State} (h : framerStep s = .next t) :
    (s.fetch = .noStep ∧ t = s) ∨ (∃ e, s.fetch = .rejected e ∧ t = s.refuse .unknownOp) ∨
      ∃ i, s.fetch = .op i ∧ exec i s = .next t := by
  unfold framerStep at h
  split at h
  · cases h; exact .inl ⟨‹_›, rfl⟩
  · cases h
  · cases h; exact .inr (.inl ⟨_, ‹_›, rfl⟩)
  · exact .inr (.inr ⟨_, ‹_›, h⟩)

/-- An operation is found only by a framer that may step, decoded from the program at `hp`. -/
theorem fetch_op {s : State} {i : Instr} (h : s.fetch = .op i) :
    s.fsm ≠ .faulted ∧ s.fsm ≠ .refused ∧ ∃ raw, s.program[s.hp]? = some raw ∧ decode raw = .ok i := by
  unfold State.fetch at h
  split at h
  · cases h
  next hm =>
    obtain ⟨hf, hr⟩ := not_or.1 hm
    split at h
    · split at h <;> cases h
    next raw hraw =>
      split at h
      next i' hd => cases h; exact ⟨hf, hr, raw, hraw, hd⟩
      · cases h

/-- A step is the turn of one agent, in the state whose next turn has been taken. -/
theorem step_cases {s t : State} (h : step s = .next t) :
    (s.nextTurn.1 = .framer ∧ framerStep s.nextTurn.2 = .next t) ∨
      (s.nextTurn.1 = .rxLink ∧ t = rxLinkStep s.nextTurn.2) ∨
      (s.nextTurn.1 = .txLink ∧ t = txLinkStep s.nextTurn.2) := by
  unfold step at h
  split at h
  next a b => exact .inl ⟨by simp [b], by simpa [b] using h⟩
  next a b => cases h; exact .inr (.inl ⟨by simp [b], by simp [b]⟩)
  next a b => cases h; exact .inr (.inr ⟨by simp [b], by simp [b]⟩)

/-- The receive link's turn: one entry placed in RXF, which had room, or nothing. -/
theorem rxLinkStep_cases (s : State) :
    rxLinkStep s = s ∨ ∃ e stream env, s.rxf.length < s.cfg.rxDepth ∧
      rxLinkStep s = { s with rxf := s.rxf ++ [e], rxStream := stream, env := env, trace := s.trace ++ [.linkRx e] } ∧
      (s.rxStream = e :: stream ∨ (s.rxStream = [] ∧ stream = [] ∧ s.rxEndless = true)) := by
  unfold rxLinkStep
  split
  · split
    next e rest h => exact .inr ⟨e, rest, s.env, ‹_›, rfl, .inl h⟩
    next h =>
      split
      next he => exact .inr ⟨_, s.rxStream, _, ‹_›, rfl, .inr ⟨h, h, he⟩⟩
      · exact .inl rfl
  · exact .inl rfl

/-- The transmit link's turn: TXF loses its head, under `QE = 1`, or nothing happens. In a loopback run the head
goes to RXF, which had room. -/
theorem txLinkStep_cases (s : State) :
    txLinkStep s = s ∨ ∃ e rest, s.qe = 1 ∧ s.txf = e :: rest ∧
      ((s.loopback = false ∧ txLinkStep s = { s with txf := rest, trace := s.trace ++ [.linkTx e] }) ∨
        (s.loopback = true ∧ s.rxf.length < s.cfg.rxDepth ∧
          txLinkStep s =
            { s with txf := rest, rxf := s.rxf ++ [e], trace := (s.trace ++ [.linkTx e]) ++ [.linkRx e] })) := by
  unfold txLinkStep
  split
  · split
    · exact .inl rfl
    next e rest h =>
      split
      next hl =>
        split
        · exact .inr ⟨e, rest, ‹_›, h, .inr ⟨hl, ‹_›, rfl⟩⟩
        · exact .inl rfl
      next hl => exact .inr ⟨e, rest, ‹_›, h, .inl ⟨by simpa using hl, rfl⟩⟩
  · exact .inl rfl

end Sys2Proof.Machine
end

