-- ==== Sys2Proof/Laws/Exec.lean ====
section
/-! SUPPORT. Once, for every operation: what one framer step of it can change in the device, the memory, the records and
the run's parameters. -/

namespace Sys2Proof.Machine

/-- What one framer step of an operation leaves of a state: the launch parameters as they were, the memory's canonical
form, at most one entry taken from RXF or put into TXF, records that only grow. -/
structure ExecFrame (s t : State) : Prop where
  cfg : t.cfg = s.cfg
  program : t.program = s.program
  loopback : t.loopback = s.loopback
  stream : t.rxStream = s.rxStream ∧ t.rxEndless = s.rxEndless
  mem : s.mem.wf → t.mem.wf
  rx : t.rxf = s.rxf ∨ ∃ e, s.rxf = e :: t.rxf
  tx : t.txf = s.txf ∨ ∃ e, s.txf.length ≠ s.cfg.txDepth ∧ t.txf = s.txf ++ [e]
  trace : ∃ es, t.trace = s.trace ++ es
  counter : ∀ l, s.cntLast = some l → ∃ l', t.cntLast = some l' ∧ l ≤ l'
  hp : t.hp = s.hp ∨ t.hp = s.hp + 1
  fault : t.fault = s.fault ∨ ∃ c, t.fault = some c
  refused : t.refused = s.refused ∨ ∃ r, t.refused = some r

theorem ExecFrame.refl (s : State) : ExecFrame s s where
  cfg := rfl
  program := rfl
  loopback := rfl
  stream := ⟨rfl, rfl⟩
  mem := id
  rx := .inl rfl
  tx := .inl rfl
  trace := ⟨[], by simp⟩
  counter := fun l h => ⟨l, h, le_rfl⟩
  hp := .inl rfl
  fault := .inl rfl
  refused := .inl rfl

namespace ExecFrame

variable {s t : State}

theorem goto (h : ExecFrame s t) (f : Fsm) : ExecFrame s (t.goto f) := { h with }

/-- The control position and the working registers are outside the frame. -/
theorem control (h : ExecFrame s t) (f : Fsm) (w : Work) : ExecFrame s { t with fsm := f, work := w } := { h with }

theorem env (h : ExecFrame s t) (e : Env) : ExecFrame s { t with env := e } := { h with }

theorem emit (h : ExecFrame s t) (e : Event) : ExecFrame s (t.emit e) :=
  { h with trace := let ⟨es, he⟩ := h.trace; ⟨es ++ [e], by simp [he]⟩ }

theorem raise (h : ExecFrame s t) (c : FaultCode) : ExecFrame s (t.raise c) := { h with fault := .inr ⟨c, rfl⟩ }

theorem refuse (h : ExecFrame s t) (r : RefuseReason) : ExecFrame s (t.refuse r) :=
  { h with refused := .inr ⟨r, rfl⟩ }

theorem finish (h : ExecFrame s t) (hp : t.hp = s.hp) (op : BitVec 8) (v : Result) : ExecFrame s (t.finish op v) :=
  { h with
    trace := let ⟨es, he⟩ := h.trace; ⟨es ++ [.ret op v], by simp [he]⟩
    hp := .inr (by simp [hp]) }

theorem ofRead {r : Reg} {v : Word} (h : deviceRead r s = .ok (v, t)) : ExecFrame s t ∧ t.hp = s.hp := by
  rcases deviceRead_cases h with ⟨-, -, rfl⟩ | ⟨e, _, hr, ⟨-, -, rfl⟩ | ⟨-, -, rfl⟩ | ⟨-, -, rfl⟩⟩
  · exact ⟨refl _, rfl⟩
  · exact ⟨refl _, rfl⟩
  · exact ⟨refl _, rfl⟩
  · exact ⟨{ refl s with rx := .inr ⟨e, hr⟩ }, rfl⟩

theorem ofWrite {r : Reg} {v : Word} (h : deviceWrite r v s = .ok t) : ExecFrame s t ∧ t.hp = s.hp := by
  rcases deviceWrite_cases h with ⟨-, rfl⟩ | ⟨-, rfl⟩ | ⟨-, st, up, -, -, hl, rfl⟩ | ⟨-, -, rfl⟩
  · exact ⟨{ refl s with }, rfl⟩
  · exact ⟨{ refl s with }, rfl⟩
  · exact ⟨{ refl s with tx := .inr ⟨_, hl, rfl⟩ }, rfl⟩
  · exact ⟨{ refl s with }, rfl⟩

/-- A bus read keeps the frame if what follows it does. -/
theorem busRead {r : Reg} {rest : Word → State → State}
    (h : ∀ v t, ExecFrame s t → t.hp = s.hp → ExecFrame s (rest v t)) : ExecFrame s (onBusRead r s rest) := by
  rcases onBusRead_cases r s rest with ⟨c, -, e⟩ | ⟨v, t, hd, e⟩
  · rw [e]; exact (refl s).raise c
  · rw [e]; exact h v _ ((ofRead hd).1.emit _) (ofRead hd).2

/-- A bus write keeps the frame if what follows it does. -/
theorem busWrite {r : Reg} {v : Word} {rest : State → State}
    (h : ∀ t, ExecFrame s t → t.hp = s.hp → ExecFrame s (rest t)) : ExecFrame s (onBusWrite r v s rest) := by
  rcases onBusWrite_cases r v s rest with ⟨c, -, e⟩ | ⟨t, hd, e⟩
  · rw [e]; exact (refl s).raise c
  · rw [e]; exact h _ ((ofWrite hd).1.emit _) (ofWrite hd).2

/-- Reading two double-words keeps the frame if what follows does. -/
theorem quad {u l : State → Except FaultCode (Word × State)} {rest : Word → Word → State → State}
    (hu : ∀ a v b, u a = .ok (v, b) → ∃ env, b = { a with env := env })
    (hl : ∀ a v b, l a = .ok (v, b) → ∃ env, b = { a with env := env })
    (h : ∀ hi lo env, ExecFrame s (rest hi lo { s with env := env })) : ExecFrame s (withQuad u l s rest) := by
  rcases withQuad_cases u l s rest with ⟨c, e⟩ | ⟨hi, t, lo, t', e1, e2, e⟩
  · rw [e]; exact (refl s).raise c
  · obtain ⟨n, rfl⟩ := hu _ _ _ e1
    obtain ⟨n', rfl⟩ := hl _ _ _ e2
    rw [e]; exact h hi lo n'

theorem emitQuad {qs qe : Bool} {qu ql : Word} {kont : Fsm} {env : Env} {w : Work} :
    ExecFrame s (emitQuad qs qe qu ql kont { s with env := env, work := w }) := { refl s with }

theorem rawRead {r : Reg} (h : rawRead r s = .next t) : ExecFrame s t := by
  rw [(atEntry_next h).2]; exact busRead fun _ _ h hp => h.finish hp _ _

theorem rawWrite {r : Reg} {v : Word} (h : rawWrite r v s = .next t) : ExecFrame s t := by
  rw [(atEntry_next h).2]; exact busWrite fun _ h hp => h.finish hp _ _

theorem waitDeadline (deadline : Nat) (next : Fsm) : ExecFrame s (waitDeadline deadline next s) := by
  obtain ⟨c, env, hc, hl⟩ := readCounter_spec s
  have f : ∀ e, ExecFrame s { s with cntLast := some c, trace := s.trace ++ [.cntRd c], env := e } := fun _ =>
    { refl s with trace := ⟨_, rfl⟩, counter := fun l h => ⟨c, rfl, hl l h⟩ }
  unfold Machine.waitDeadline
  simp only [hc]
  obtain ⟨b, env', he, -⟩ := past_spec { s with cntLast := some c, trace := s.trace ++ [.cntRd c], env := env } c deadline
  rw [he]
  cases b
  · exact (f env').goto next
  · exact (f env').finish rfl _ _

theorem waitAppend (b : Buffer) (cursor : Nat) (st up lo : Word) :
    ExecFrame s (waitAppend b cursor st up lo s) := by
  unfold Machine.waitAppend
  dsimp only
  split
  · exact (refl s).raise _
  next m hm =>
    split
    · have f : ExecFrame s { s with mem := m } := { refl s with mem := fun h => store32_wf h hm }
      exact f.raise _
    next m' hm' => exact { refl s with mem := fun h => store32_wf (store32_wf h hm) hm' }

theorem waitForTlp {b : Buffer} {cap deadline : Nat} (h : execCallWaitForTlp b cap deadline s = .next t) :
    ExecFrame s t := by
  have init : ExecFrame s (waitInit b cap s) := by
    unfold waitInit
    split
    · exact (refl s).refuse _
    · exact (refl s).control _ _
  unfold execCallWaitForTlp at h
  split at h
  · cases h; exact init
  · cases h; exact init
  · cases h; exact waitDeadline _ _
  · cases h; exact busRead fun _ _ h _ => h.goto _
  · cases h; exact busRead fun _ _ h _ => h.control _ _
  · cases h; exact busRead fun _ _ h _ => h.control _ _
  · cases h; exact busRead fun _ _ h _ => h.control _ _
  · obtain ⟨_, -, h⟩ := readWork_next h
    obtain ⟨_, -, h⟩ := readWork_next h
    obtain ⟨_, -, h⟩ := readWork_next h
    obtain ⟨_, -, h⟩ := readWork_next h
    cases h; exact waitAppend ..
  · obtain ⟨_, -, h⟩ := readWork_next h
    cases h
    unfold waitOverflow
    split
    · exact ((refl s).emit _).finish rfl _ _
    · exact (refl s).goto _
  · cases h; exact waitDeadline _ _
  · obtain ⟨_, -, h⟩ := readWork_next h
    obtain ⟨_, -, h⟩ := readWork_next h
    cases h
    unfold waitEop
    split
    · exact (refl s).finish rfl _ _
    · exact (refl s).goto _
  · cases h

theorem drainReady : ExecFrame s (drainReady s) :=
  busRead fun _ _ h hp => by
    split
    · exact h.goto _
    · exact h.finish hp _ _

theorem drain (h : execCallDrainPcieCore s = .next t) : ExecFrame s t := by
  unfold execCallDrainPcieCore at h
  split at h
  · cases h
    exact { drainReady (s := { s with work := {} }) with }
  · cases h; exact drainReady
  · cases h; exact busRead fun _ _ h _ => h.control _ _
  · cases h; exact busRead fun _ _ h _ => h.control _ _
  · cases h; exact busRead fun _ _ h _ => h.control _ _
  · obtain ⟨_, -, h⟩ := readWork_next h
    cases h
    unfold drainSpin
    split
    · exact (refl s).control _ _
    · exact (refl s).goto _
  · cases h

theorem quadStates {f : State → State} (h : (∃ qs qe, f = quadStatus qs qe) ∨ (∃ qu, f = quadUpper qu) ∨
    ∃ ql kont, f = quadLower ql kont) : ExecFrame s (f s) := by
  rcases h with ⟨_, _, rfl⟩ | ⟨_, rfl⟩ | ⟨_, _, rfl⟩ <;> exact busWrite fun _ h _ => h.goto _

theorem sendData (data : Buffer) (dataLen bi : Nat) (loop : Fsm) : ExecFrame s (sendData data dataLen bi loop s) := by
  unfold Machine.sendData
  split
  · exact quad (fun _ _ _ => srcDW_ok) (fun _ _ _ => srcDW_ok) fun _ _ _ => emitQuad
  · exact (refl s).goto _

theorem sendTlp {header : Buffer} {headerLen : Nat} {data : Option Buffer} {dataLen alignment : Nat}
    (h : execCallSendTlp header headerLen data dataLen alignment s = .next t) : ExecFrame s t := by
  have seed : ExecFrame s (sendSeed header headerLen data dataLen alignment s) := by
    unfold sendSeed
    split
    · exact (refl s).refuse _
    · exact quad (fun _ _ _ => srcDW_ok) (fun _ _ _ => srcDW_ok) fun _ _ _ => emitQuad
  unfold execCallSendTlp at h
  split at h
  · cases h; exact seed
  · cases h; exact seed
  · obtain ⟨_, -, h⟩ := readWork_next h
    obtain ⟨_, -, h⟩ := readWork_next h
    cases h; exact quadStates (.inl ⟨_, _, rfl⟩)
  · obtain ⟨_, -, h⟩ := readWork_next h
    cases h; exact quadStates (.inr (.inl ⟨_, rfl⟩))
  · obtain ⟨_, -, h⟩ := readWork_next h
    obtain ⟨_, -, h⟩ := readWork_next h
    cases h; exact quadStates (.inr (.inr ⟨_, _, rfl⟩))
  · cases h; exact busWrite fun _ h _ => h.goto _
  · cases h; exact (refl s).goto _
  · cases h; exact quad (fun _ _ _ => srcDW_ok) (fun _ _ _ => srcDW_ok) fun _ _ _ => emitQuad
  · obtain ⟨_, -, h⟩ := readWork_next h
    cases h; exact sendData ..
  · cases h; exact quad (fun _ _ _ => srcDW_ok) (fun _ _ _ => srcDW_ok) fun _ _ _ => emitQuad
  · obtain ⟨_, -, h⟩ := readWork_next h
    cases h; exact sendData ..
  · cases h; exact busWrite fun _ h hp => h.finish hp _ _
  · cases h

theorem unalignedLoop (tlp : Buffer) (tlpLen q n : Nat) : ExecFrame s (unalignedLoop tlp tlpLen q n s) := by
  unfold Machine.unalignedLoop
  split
  · exact quad (fun _ _ _ => srcDW_ok) (fun _ _ _ => unalignedUpper_ok) fun _ _ _ => emitQuad
  · exact (refl s).goto _

theorem sendTlpUnaligned {tlp : Buffer} {tlpLen : Nat} (h : execCallSendTlpUnaligned tlp tlpLen s = .next t) :
    ExecFrame s t := by
  have init : ExecFrame s (unalignedInit tlp tlpLen s) := by
    unfold unalignedInit
    split
    · exact (refl s).refuse _
    · exact (refl s).control _ _
  unfold execCallSendTlpUnaligned at h
  split at h
  · cases h; exact init
  · cases h; exact init
  · obtain ⟨_, -, h⟩ := readWork_next h
    obtain ⟨_, -, h⟩ := readWork_next h
    cases h; exact unalignedLoop ..
  · obtain ⟨_, -, h⟩ := readWork_next h
    obtain ⟨_, -, h⟩ := readWork_next h
    cases h; exact quadStates (.inl ⟨_, _, rfl⟩)
  · obtain ⟨_, -, h⟩ := readWork_next h
    cases h; exact quadStates (.inr (.inl ⟨_, rfl⟩))
  · obtain ⟨_, -, h⟩ := readWork_next h
    obtain ⟨_, -, h⟩ := readWork_next h
    cases h; exact quadStates (.inr (.inr ⟨_, _, rfl⟩))
  · cases h; exact ((refl s).emit _).finish rfl _ _
  · cases h

end ExecFrame

/-- One framer step of any operation keeps the frame. -/
theorem exec_frame {i : Instr} {s t : State} (h : exec i s = .next t) : ExecFrame s t := by
  cases i <;> simp only [exec] at h
  case callMask w width =>
    rw [(atEntry_next h).2]
    unfold maskExec
    split
    · exact (ExecFrame.refl s).raise _
    · exact (ExecFrame.refl s).finish rfl _ _
  case callMaskEnableBits w high low =>
    rw [(atEntry_next h).2]
    unfold maskEnableExec
    split
    · exact (ExecFrame.refl s).raise _
    · exact (ExecFrame.refl s).finish rfl _ _
  case callCloseConnections => rw [(atEntry_next h).2]; exact (ExecFrame.refl s).finish rfl _ _
  case callWaitForTlp => exact ExecFrame.waitForTlp h
  case callDrainPcieCore => exact ExecFrame.drain h
  case callSendTlp => exact ExecFrame.sendTlp h
  case callSendTlpUnaligned => exact ExecFrame.sendTlpUnaligned h
  all_goals first | exact ExecFrame.rawRead h | exact ExecFrame.rawWrite h

end Sys2Proof.Machine
end

