-- ==== Sys2Proof/Laws/PerInstr.lean ====
section
/-! SUPPORT. Per-instruction laws. Family `TableCode`: the encoder opens each instruction with the code that the opcode
table gives its row. -/

namespace Sys2Proof.Laws.TableCode

/-- The code of each row, from the opcode table (R101, R102, R104). -/
def rowCode : Instr → BitVec 8
  | .rdRxReady => 0x00
  | .rdRxStatus => 0x01
  | .rdRxUpper32 => 0x02
  | .rdRxLower32deq => 0x03
  | .rdTxStatus => 0x04
  | .rdTxUpper32 => 0x05
  | .rdTxLower32send => 0x06
  | .rdTxQueueenable => 0x07
  | .wrRxReady _ => 0x08
  | .wrRxStatus _ => 0x09
  | .wrRxUpper32 _ => 0x0A
  | .wrRxLower32deq _ => 0x0B
  | .wrTxStatus _ => 0x0C
  | .wrTxUpper32 _ => 0x0D
  | .wrTxLower32send _ => 0x0E
  | .wrTxQueueenable _ => 0x0F
  | .callMask _ _ => 0x10
  | .callMaskEnableBits _ _ _ => 0x11
  | .callWaitForTlp _ _ _ => 0x12
  | .callDrainPcieCore => 0x13
  | .callSendTlp _ _ _ _ _ => 0x14
  | .callSendTlpUnaligned _ _ => 0x15
  | .callCloseConnections => 0x16

def Statement (i : Instr) : Prop := (encode i).code = rowCode i

theorem rdRxReady : Statement .rdRxReady := encodeBus_code 0 .rxReady 0
theorem rdRxStatus : Statement .rdRxStatus := encodeBus_code 0 .rxStatus 0
theorem rdRxUpper32 : Statement .rdRxUpper32 := encodeBus_code 0 .rxUpper32 0
theorem rdRxLower32deq : Statement .rdRxLower32deq := encodeBus_code 0 .rxLower32deq 0
theorem rdTxStatus : Statement .rdTxStatus := encodeBus_code 0 .txStatus 0
theorem rdTxUpper32 : Statement .rdTxUpper32 := encodeBus_code 0 .txUpper32 0
theorem rdTxLower32send : Statement .rdTxLower32send := encodeBus_code 0 .txLower32send 0
theorem rdTxQueueenable : Statement .rdTxQueueenable := encodeBus_code 0 .txQueueenable 0
theorem wrRxReady (v : Word) : Statement (.wrRxReady v) := encodeBus_code 1 .rxReady v
theorem wrRxStatus (v : Word) : Statement (.wrRxStatus v) := encodeBus_code 1 .rxStatus v
theorem wrRxUpper32 (v : Word) : Statement (.wrRxUpper32 v) := encodeBus_code 1 .rxUpper32 v
theorem wrRxLower32deq (v : Word) : Statement (.wrRxLower32deq v) := encodeBus_code 1 .rxLower32deq v
theorem wrTxStatus (v : Word) : Statement (.wrTxStatus v) := encodeBus_code 1 .txStatus v
theorem wrTxUpper32 (v : Word) : Statement (.wrTxUpper32 v) := encodeBus_code 1 .txUpper32 v
theorem wrTxLower32send (v : Word) : Statement (.wrTxLower32send v) := encodeBus_code 1 .txLower32send v
theorem wrTxQueueenable (v : Word) : Statement (.wrTxQueueenable v) := encodeBus_code 1 .txQueueenable v
theorem callMask (w : Precision) (width : Nat) : Statement (.callMask w width) := rfl
theorem callMaskEnableBits (w : Precision) (high low : Nat) : Statement (.callMaskEnableBits w high low) := rfl
theorem callWaitForTlp (buffer : Buffer) (cap deadline : Nat) : Statement (.callWaitForTlp buffer cap deadline) := rfl
theorem callDrainPcieCore : Statement .callDrainPcieCore := rfl
theorem callSendTlp (header : Buffer) (headerLen : Nat) (data : Option Buffer) (dataLen alignment : Nat) :
    Statement (.callSendTlp header headerLen data dataLen alignment) := rfl
theorem callSendTlpUnaligned (tlp : Buffer) (tlpLen : Nat) : Statement (.callSendTlpUnaligned tlp tlpLen) := rfl
theorem callCloseConnections : Statement .callCloseConnections := rfl

end Sys2Proof.Laws.TableCode
end

