-- ==== Sys2Proof/Tests/Slice0.lean ====
section
/-! SUPPORT. Tests: ill-formed terms refused, words written out from the encoding tables, one-step vectors of
95_test_vectors.md (their ids are named), and for every statement with hypotheses a witness that meets them. -/

namespace Sys2Proof.Tests

open Sys2Proof.Machine

/-! ### Small states -/

/-- The two entries the vectors of L2-R use. -/
def e1 : Entry := ⟨0x3FF, 0xA, 0xB⟩
def e2 : Entry := ⟨0x3FE, 0xC, 0xD⟩

/-- Buffers of 16, 8 and 24 bytes in host memory. -/
def headerBuf : Buffer := ⟨0x2000, 16⟩
def dataBuf : Buffer := ⟨0x2010, 8⟩
def flatBuf : Buffer := ⟨0x2000, 24⟩

/-- Bytes 1 to 24 from address 0x2000 up. -/
def bufferCells : List Host.Cell := (List.range 24).map fun a => (0x2000 + a, BitVec.ofNat 8 (a + 1))

/-- A launched run of one operation under the example layout EL. -/
def run (i : Instr) : State :=
  State.launch { cfg := Config.exampleParams, program := [encode i], cells := bufferCells, qe := 1 }

/-- That run in the given state of the operation, with two entries in RXF. -/
def at_ (i : Instr) (f : Fsm) (w : Work) : State := { run i with fsm := f, work := w, rxf := [e1, e2] }

/-- A component of the state an operation's step leads to. -/
def seen {α : Type} (o : StepOutcome) (f : State → α) : Option α :=
  match o with
  | .next t => some (f t)
  | _ => none

/-- The instruction a raw operation decodes to. -/
def decoded (r : RawOp) : Option Instr :=
  match decode r with
  | .ok i => some i
  | .error _ => none

/-- Why a raw operation does not decode. -/
def rejected (r : RawOp) : Option DecodeError :=
  match decode r with
  | .ok _ => none
  | .error e => some e

def aWaitAt : Buffer := ⟨0x1000, 16⟩
def aWait : Instr := .callWaitForTlp aWaitAt 16 100
def aSend : Instr := .callSendTlp headerBuf 12 (some dataBuf) 8 1
def aFlat : Instr := .callSendTlpUnaligned flatBuf 24

/-! ### Well-formedness -/

/-- R222: the data buffer may be absent only when `data_len = 0`. -/
theorem test_wf_absent_data : (Instr.callSendTlp headerBuf 12 none 4 0).wf = false := by decide

/-- The decoder refuses the ill-formed term. -/
theorem test_wf_absent_data_refused :
    rejected (.call 0x14 (.sendTlp headerBuf 12 none 4 0)) = some .absentData := by decide

/-! ### Decoding: words written out bit by bit from R101 and R102 -/

theorem test_decode_rd_rx_ready : decoded (.word 0b00000000_00000000000000000000000000000000) = some .rdRxReady := by
  decide

theorem test_decode_rd_rx_status : decoded (.word 0b00000001_00000000000000000000000000000000) = some .rdRxStatus := by
  decide

theorem test_decode_rd_rx_upper32 : decoded (.word 0b00000010_00000000000000000000000000000000) = some .rdRxUpper32 := by
  decide

theorem test_decode_rd_rx_lower32deq :
    decoded (.word 0b00000011_00000000000000000000000000000000) = some .rdRxLower32deq := by decide

theorem test_decode_rd_tx_status : decoded (.word 0b00000100_00000000000000000000000000000000) = some .rdTxStatus := by
  decide

theorem test_decode_rd_tx_upper32 : decoded (.word 0b00000101_00000000000000000000000000000000) = some .rdTxUpper32 := by
  decide

theorem test_decode_rd_tx_lower32send :
    decoded (.word 0b00000110_00000000000000000000000000000000) = some .rdTxLower32send := by decide

theorem test_decode_rd_tx_queueenable :
    decoded (.word 0b00000111_00000000000000000000000000000000) = some .rdTxQueueenable := by decide

theorem test_decode_wr_rx_ready :
    decoded (.word 0b00001000_10000000000000000000000000000001) = some (.wrRxReady 0x80000001) := by decide

theorem test_decode_wr_rx_status :
    decoded (.word 0b00001001_00000000000000000000000000000010) = some (.wrRxStatus 2) := by decide

theorem test_decode_wr_rx_upper32 :
    decoded (.word 0b00001010_00000000000000000000000000000011) = some (.wrRxUpper32 3) := by decide

theorem test_decode_wr_rx_lower32deq :
    decoded (.word 0b00001011_00000000000000000000000000000100) = some (.wrRxLower32deq 4) := by decide

theorem test_decode_wr_tx_status :
    decoded (.word 0b00001100_00000000000000000000001111111111) = some (.wrTxStatus 0x3FF) := by decide

theorem test_decode_wr_tx_upper32 :
    decoded (.word 0b00001101_11001010111111101111000000001101) = some (.wrTxUpper32 0xCAFEF00D) := by decide

theorem test_decode_wr_tx_lower32send :
    decoded (.word 0b00001110_00010010001101000101011001111000) = some (.wrTxLower32send 0x12345678) := by decide

theorem test_decode_wr_tx_queueenable :
    decoded (.word 0b00001111_00000000000000000000000000000001) = some (.wrTxQueueenable 1) := by decide

theorem test_decode_mask : decoded (.call 0b00010000 (.mask .w64 5)) = some (.callMask .w64 5) := by decide

theorem test_decode_mask_enable_bits :
    decoded (.call 0b00010001 (.maskEnableBits .w32 7 4)) = some (.callMaskEnableBits .w32 7 4) := by decide

theorem test_decode_wait_for_tlp :
    decoded (.call 0b00010010 (.waitForTlp ⟨0x1000, 16⟩ 16 100)) = some aWait := by decide

theorem test_decode_drain_pcie_core : decoded (.call 0b00010011 .none) = some .callDrainPcieCore := by decide

theorem test_decode_send_tlp :
    decoded (.call 0b00010100 (.sendTlp headerBuf 12 (some dataBuf) 8 1)) = some aSend := by decide

theorem test_decode_send_tlp_unaligned :
    decoded (.call 0b00010101 (.sendTlpUnaligned flatBuf 24)) = some aFlat := by decide

theorem test_decode_close_connections : decoded (.call 0b00010110 .none) = some .callCloseConnections := by decide

/-- R-17 to R-19, and the ends of the ranges of R104. -/
theorem test_decode_reserved :
    rejected (.call 0x17 .none) = some .reservedSelector ∧ rejected (.call 0x1F .none) = some .reservedSelector ∧
    rejected (.word 0x1700000000) = some .reservedSelector ∧ rejected (.call 0x20 .none) = some .reservedClass ∧
    rejected (.word 0xFF00000000) = some .reservedClass ∧ rejected (.word 0x0000000001) = some .readWithValue ∧
    rejected (.word 0x0700000001) = some .readWithValue ∧ rejected (.word 0x1600000000) = some .wrongFormat ∧
    rejected (.call 0x0F .none) = some .wrongFormat ∧ rejected (.call 0x10 .none) = some .wrongRecord := by decide

/-! ### The status word under EL -/

/-- P-6 and the table of packed words (R106). -/
theorem test_pack :
    pack Config.exampleParams 1 0 0xFF = 0x3FD ∧ pack Config.exampleParams 0 1 0xFF = 0x3FE ∧
    pack Config.exampleParams 1 1 0xFF = 0x3FF ∧ pack Config.exampleParams 0 0 0xFF = 0x3FC ∧
    pack Config.exampleParams 0 0 0x0F = 0x3C := by decide

/-- P-1, P-2, P-4, P-5 (R107). -/
theorem test_unpack :
    (sopOf Config.exampleParams 1, eopOf Config.exampleParams 1, beOf Config.exampleParams 1) = (true, false, 0) ∧
    (sopOf Config.exampleParams 2, eopOf Config.exampleParams 2, beOf Config.exampleParams 2) = (false, true, 0) ∧
    (sopOf Config.exampleParams 0xFFFFFFFF, eopOf Config.exampleParams 0xFFFFFFFF,
      beOf Config.exampleParams 0xFFFFFFFF) = (true, true, 0xFF) ∧
    (sopOf Config.exampleParams 0x400, eopOf Config.exampleParams 0x400, beOf Config.exampleParams 0x400) =
      (false, false, 0) := by decide

/-! ### Register operations -/

/-- R-1 and R-2. -/
theorem test_rd_rx_ready :
    seen (exec .rdRxReady (run .rdRxReady)) (·.work.ret) = some (some (.word 0)) ∧
    seen (exec .rdRxReady (at_ .rdRxReady .idle {})) (·.work.ret) = some (some (.word 1)) := by decide

/-- R-3 and R-5. -/
theorem test_rd_rx_status :
    seen (exec .rdRxStatus (at_ .rdRxStatus .idle {})) (fun t => (t.work.ret, t.rxf)) =
      some (some (.word 0x3FF), [e1, e2]) ∧
    seen (exec .rdRxStatus (run .rdRxStatus)) (fun t => (t.fault, t.trace)) =
      some (some (.rxEmpty .rxStatus), []) := by decide

/-- R-4, its first read. -/
theorem test_rd_rx_upper32 :
    seen (exec .rdRxUpper32 (at_ .rdRxUpper32 .idle {})) (fun t => (t.work.ret, t.rxf)) =
      some (some (.word 0xA), [e1, e2]) := by decide

/-- R-4, its second read, and R-6. -/
theorem test_rd_rx_lower32deq :
    seen (exec .rdRxLower32deq (at_ .rdRxLower32deq .idle {})) (fun t => (t.work.ret, t.rxf)) =
      some (some (.word 0xB), [e2]) ∧
    seen (exec .rdRxLower32deq (run .rdRxLower32deq)) (·.fault) = some (some (.rxEmpty .rxLower32deq)) := by decide

/-- R-15, R-16 and R149: every wrong direction, with its op code. -/
theorem test_wrong_direction :
    seen (exec .rdTxStatus (run .rdTxStatus)) (·.fault) = some (some (.illegalAccess 0x04)) ∧
    seen (exec .rdTxQueueenable (run .rdTxQueueenable)) (·.fault) = some (some (.illegalAccess 0x07)) ∧
    seen (exec (.wrRxReady 0) (run (.wrRxReady 0))) (·.fault) = some (some (.illegalAccess 0x08)) ∧
    seen (exec (.wrRxLower32deq 0) (run (.wrRxLower32deq 0))) (·.fault) = some (some (.illegalAccess 0x0B)) := by decide

/-- H-2: a second status write replaces the first. -/
theorem test_wr_tx_status :
    seen (exec (.wrTxStatus 0x3FE) { run (.wrTxStatus 0x3FE) with txs := some 0x3FD }) (·.txs) = some (some 0x3FE) := by
  decide

/-- The example of R146. -/
theorem test_wr_tx_upper32 :
    seen (exec (.wrTxUpper32 0xDEADBEEF) (run (.wrTxUpper32 0xDEADBEEF))) (·.txu) = some (some 0xDEADBEEF) := by decide

/-- R-7, its third write: one entry, both latches unwritten. -/
theorem test_wr_tx_lower32send :
    seen (exec (.wrTxLower32send 3) { run (.wrTxLower32send 3) with txs := some 0x3FF, txu := some 2 })
      (fun t => (t.txf, t.txs, t.txu)) = some ([⟨0x3FF, 2, 3⟩], none, none) := by decide

/-- R-9, R-11 and R-12: the latch check comes before the room check. -/
theorem test_wr_tx_lower32send_faults :
    seen (exec (.wrTxLower32send 3) (run (.wrTxLower32send 3))) (·.fault) = some (some (.txLatch true true)) ∧
    seen (exec (.wrTxLower32send 3)
      { run (.wrTxLower32send 3) with
        cfg := { Config.exampleParams with txDepth := 1 }, txf := [e1], txs := some 1, txu := some 2 }) (·.fault) =
      some (some .txFull) ∧
    seen (exec (.wrTxLower32send 3)
      { run (.wrTxLower32send 3) with
        cfg := { Config.exampleParams with txDepth := 1 }, txf := [e1], txs := some 1 }) (·.fault) =
      some (some (.txLatch false true)) := by decide

/-- R-13 and R-14. -/
theorem test_wr_tx_queueenable :
    seen (exec (.wrTxQueueenable 0) (run (.wrTxQueueenable 0))) (·.qe) = some 0 ∧
    seen (exec (.wrTxQueueenable 2) (run (.wrTxQueueenable 2))) (fun t => (t.fault, t.qe)) =
      some (some (.qeValue 2), 1) := by decide

/-! ### Masks -/

/-- L1-1. -/
theorem test_mask :
    seen (exec (.callMask .w32 5) (run (.callMask .w32 5))) (·.work.ret) = some (some (.mask32 0x1F)) ∧
    seen (exec (.callMask .w32 32) (run (.callMask .w32 32))) (·.work.ret) = some (some (.mask32 0xFFFFFFFF)) ∧
    seen (exec (.callMask .w32 33) (run (.callMask .w32 33))) (·.fault) = some (some (.contract .w32 [33])) ∧
    seen (exec (.callMask .w64 64) (run (.callMask .w64 64))) (·.work.ret) =
      some (some (.mask64 0xFFFFFFFFFFFFFFFF)) := by decide

/-- L1-2, M-5, M-6 and M-7. -/
theorem test_mask_enable_bits :
    seen (exec (.callMaskEnableBits .w32 7 4) (run .rdRxReady)) (·.work.ret) = some (some (.mask32 0xF0)) ∧
    seen (exec (.callMaskEnableBits .w32 31 31) (run .rdRxReady)) (·.work.ret) = some (some (.mask32 0x80000000)) ∧
    seen (exec (.callMaskEnableBits .w64 32 32) (run .rdRxReady)) (·.work.ret) =
      some (some (.mask64 0x100000000)) ∧
    seen (exec (.callMaskEnableBits .w32 3 4) (run .rdRxReady)) (·.fault) = some (some (.contract .w32 [3, 4])) ∧
    seen (exec (.callMaskEnableBits .w32 32 0) (run .rdRxReady)) (·.fault) = some (some (.contract .w32 [32, 0])) := by
  decide

/-! ### The receive path -/

/-- W-1, its append: the lower word below the upper, little-endian. -/
theorem test_wait_append :
    seen (exec aWait (at_ aWait .wApp { cursor := some 8, s := some 0x3FF, u := some 0x22222222, l := some 0x11111141 }))
      (fun t => (t.mem.read 0x1000, t.mem.read 0x1001, t.mem.read 0x1004, t.mem.read 0x1008, t.work.cursor)) =
      some (0x41, 0x11, 0x22, 0, some 8) := by decide

/-- W-11: with room for one word only, that word is stored, then the fault. -/
theorem test_wait_append_fault :
    seen (exec (.callWaitForTlp ⟨0x1000, 4⟩ 16 100)
      (at_ aWait .wApp { cursor := some 0, s := some 0x3FF, u := some 0x22222222, l := some 0x11111111 }))
      (fun t => (t.fault, t.mem.read 0x1003, t.mem.read 0x1004, t.work.cursor)) =
      some (some (.bufOob ⟨0x1000, 4⟩ 4), 0x11, 0, some 0) := by decide

/-- D-1, D-2: an empty FIFO ends the drain; a full one leads to the status read. -/
theorem test_drain :
    seen (exec .callDrainPcieCore (run .callDrainPcieCore)) (·.trace) =
      some [.busRd .rxReady 0, .ret 0x13 .unit] ∧
    seen (exec .callDrainPcieCore (at_ .callDrainPcieCore .idle {})) (fun t => (t.trace, t.fsm)) =
      some ([.busRd .rxReady 1], .dSt) := by decide

/-- D-3: with `DRAIN_SPIN = 3` the idle step leaves at `k = 3`. -/
theorem test_drain_spin :
    seen (exec .callDrainPcieCore
      { at_ .callDrainPcieCore .dSpin { k := some 2 } with cfg := { Config.exampleParams with drainSpin := 3 } })
      (fun t => (t.fsm, t.work.k)) = some (.dSpin, some 3) ∧
    seen (exec .callDrainPcieCore
      { at_ .callDrainPcieCore .dSpin { k := some 3 } with cfg := { Config.exampleParams with drainSpin := 3 } })
      (·.fsm) = some .dRdy := by decide

/-! ### The transmit path -/

/-- L1-7, its first quadword: H1 above H0, little-endian, startofpacket, before any hold. -/
theorem test_send_seed :
    seen (exec aSend (run aSend)) (fun t => (t.work.qs, t.work.qe, t.work.qu, t.work.ql)) =
      some (some 1, some 0, some 0x08070605, some 0x04030201) := by decide

/-- S-4, its last quadword: D2 above D1 at `bi = 4`, here S-3's with `data_len = 12` in a 12-byte buffer. -/
theorem test_send_data :
    seen (exec (.callSendTlp headerBuf 12 (some ⟨0x2008, 12⟩) 12 1) (at_ aSend .sUl { bi := some 4 }))
      (fun t => (t.work.qe, t.work.qu, t.work.ql, t.work.bi)) =
      some (some 1, some 0x14131211, some 0x100F0E0D, some 12) := by decide

/-- U-2: the zero-pad case, `tlp_len = 1`; the listed draws fill the lower half. -/
theorem test_unaligned_pad :
    seen (exec (.callSendTlpUnaligned flatBuf 1)
      { at_ aFlat .uLoop { q := some 0, n := some 1 } with env := { bytes := [0xEE, 0xEF, 0xF0] } })
      (fun t => (t.work.qs, t.work.qe, t.work.qu, t.work.ql)) =
      some (some 1, some 1, some 0, some 0xF0EFEE01) := by decide

/-- U-8, its last quadword: T3 with one byte of the buffer, above T2. -/
theorem test_unaligned_last :
    seen (exec (.callSendTlpUnaligned flatBuf 13)
      { at_ aFlat .uLoop { q := some 1, n := some 2 } with env := { bytes := [0xEE, 0xEF, 0xF0] } })
      (fun t => (t.work.qs, t.work.qe, t.work.qu, t.work.ql)) =
      some (some 0, some 1, some 0xF0EFEE0D, some 0x0C0B0A09) := by decide

/-- C-1. -/
theorem test_close_connections :
    seen (exec .callCloseConnections (run .callCloseConnections)) (·.trace) = some [.ret 0x16 .unit] := by decide

/-- R-20 to R-22. -/
theorem test_links :
    (txLinkStep { run .rdRxReady with txf := [e1] }).trace = [.linkTx e1] ∧
    (txLinkStep { run .rdRxReady with txf := [e1], qe := 0 }).txf = [e1] ∧
    (rxLinkStep { run .rdRxReady with
      cfg := { Config.exampleParams with rxDepth := 1 }, rxf := [e1], rxStream := [e2] }).rxf = [e1] := by decide

/-! ### Witnesses: for every statement with hypotheses, operands and states that meet them, each clause at its ends -/

/-- One decodable raw operation of each format. -/
theorem witness_EncodeInvertsDecode :
    decode (.word 0x0C000003FF) = .ok (.wrTxStatus 0x3FF) ∧ decode (.call 0x10 (.mask .w32 5)) = .ok (.callMask .w32 5) :=
  ⟨rfl, rfl⟩

/-- An absent data buffer with `data_len = 0`, and a present one. -/
theorem witness_DecodeInvertsEncode :
    (Instr.callSendTlp headerBuf 16 none 0 0).wf = true ∧ aSend.wf = true := by decide

theorem witness_PackAndUnpackStatusWord : Config.exampleParams.wf ∧ 0xFF < 2 ^ Config.exampleParams.beW := by decide

theorem witness_MaskCallReturnsMask :
    (run (.callMask .w32 32)).fsm = .idle ∧ (at_ (.callMask .w64 65) .mExec {}).fsm = .mExec := by decide

theorem witness_MaskEnableCallReturnsMask :
    (run (.callMaskEnableBits .w32 31 31)).fsm = .idle ∧ (at_ (.callMaskEnableBits .w64 64 0) .mbExec {}).fsm = .mbExec := by
  decide

theorem witness_MaskBitLaws : (32 ≤ 32 ∧ 31 < 32) ∧ (0 ≤ 63 ∧ 63 < 64) ∧ (63 ≤ 63 ∧ 63 < 64) := by decide

/-- The last word of a buffer. -/
theorem witness_StoreThenLoadLittleEndian : (run aSend).mem.wf ∧ 12 + 4 ≤ headerBuf.extent := by decide

/-- One byte past the last word, one past the last quadword, and the last quadword. -/
theorem witness_BufferAccessBounds :
    headerBuf.extent < 13 + 4 ∧ headerBuf.extent < 9 + 8 ∧ 8 + 8 ≤ headerBuf.extent := by decide

/-- A double-word partly past the stated length, and one whose first byte past the extent is the third. -/
theorem witness_SourceDoubleWordBytes :
    srcOwned headerBuf 13 12 ∧
    (2 < 4 ∧ 14 + 2 < 20 ∧ headerBuf.extent ≤ 14 + 2 ∧ ∀ j, j < 2 → 14 + j < headerBuf.extent) := by decide

theorem witness_DrawnBytesUnconstrained : srcOwned headerBuf 13 12 ∧ srcMatches (run aSend).mem headerBuf 13 12 0xAABBCC0D := by
  decide

/-- RdRxReadyReadsOccupancy, RdRxStatusUpperReadHead and RdRxLower32deqDequeues: both control positions, RXF empty and
not. -/
theorem witness_registerReads :
    (run .rdRxReady).fsm = .idle ∧ (run .rdRxReady).rxf = [] ∧
    (at_ .rdRxStatus .bExec {}).fsm = .bExec ∧ (at_ .rdRxStatus .bExec {}).rxf = e1 :: [e2] ∧
    (at_ .rdRxStatus .bExec {}).rxf ≠ [] := by decide

/-- The latches unwritten; written with TXF full at depth 1; written with room. -/
theorem witness_WrTxLower32sendPushes :
    (run (.wrTxLower32send 3)).fsm = .idle ∧ (run (.wrTxLower32send 3)).txs = none ∧
    (let s := { run (.wrTxLower32send 3) with
        cfg := { Config.exampleParams with txDepth := 1 }, txf := [e1], txs := some 1, txu := some 2 }
     s.fsm = .idle ∧ s.txs = some 1 ∧ s.txu = some 2 ∧ s.txf.length = s.cfg.txDepth) ∧
    (let s := { run (.wrTxLower32send 3) with txf := [e1, e1, e1], txs := some 1, txu := some 2 }
     s.fsm = .idle ∧ s.txs = some 1 ∧ s.txu = some 2 ∧ s.txf.length ≠ s.cfg.txDepth) := by decide

/-- WrTxStatusUpperLatch, WrTxQueueenableSetsGate and WrongDirectionFaults (any value meets their conditionals). -/
theorem witness_registerWrites :
    (run (.wrTxStatus 1)).fsm = .idle ∧ (at_ (.wrTxUpper32 1) .bExec {}).fsm = .bExec ∧
    (run (.wrTxQueueenable 1)).fsm = .idle ∧ (run (.wrRxReady 1)).fsm = .idle := by decide

theorem witness_WaitEntryChecks : (run aWait).fsm = .idle ∧ (at_ aWait .wInit {}).fsm = .wInit := by decide

/-- Where the clauses meet: the last capacity in range and the first that is not, an aligned base and the next double-word. -/
theorem witness_WaitEntryChecks_bounds :
    ¬ 2 ^ 32 - 1 ≥ 2 ^ 32 ∧ 2 ^ 32 ≥ 2 ^ 32 ∧ aWaitAt.base % 8 = 0 ∧ (⟨0x1004, 16⟩ : Buffer).base % 8 ≠ 0 ∧
    seen (exec (.callWaitForTlp aWaitAt (2 ^ 32 - 1) 0) (run aWait)) State.fsm = some .wDl ∧
    seen (exec (.callWaitForTlp aWaitAt (2 ^ 32) 0) (run aWait)) State.refused = some (some .lenRange) := by decide

/-- Below, above and at the deadline. -/
theorem witness_DeadlinePredicate : 9 < 10 ∧ 10 < 11 ∧ 10 = 10 := by decide

/-- A counter that was read at 7: 7 can be read again; and a step from that state. -/
theorem witness_CounterReadsMonotone :
    (∀ l, ({ run aWait with cntLast := some 7 } : State).cntLast = some l → l ≤ 7) ∧
    ∃ t, step { run aWait with cntLast := some 7, env := { turns := [.framer] } } = .next t :=
  ⟨fun l h => by cases h; decide, _, rfl⟩

theorem witness_WaitDeadlineChecks :
    (at_ aWait .wDl {}).fsm = .wDl ∧ (at_ aWait .wDl2 {}).fsm = .wDl2 := by decide

/-- Each of the four states, RXF empty and not. -/
theorem witness_WaitPollsAndReadsEntry :
    (at_ aWait .wRdy {}).fsm = .wRdy ∧ (at_ aWait .wRdy {}).rxf ≠ [] ∧
    (at_ aWait .wSt {}).fsm = .wSt ∧ (at_ aWait .wUp {}).fsm = .wUp ∧ (at_ aWait .wLo {}).fsm = .wLo ∧
    (at_ aWait .wLo {}).rxf = e1 :: [e2] ∧
    ({ run aWait with fsm := .wSt } : State).fsm = .wSt ∧ ({ run aWait with fsm := .wSt } : State).rxf = [] := by decide

/-- The registers of an append. -/
def appendWork (cursor : Nat) (st : Word) : Work := { cursor := some cursor, s := some st, u := some 1, l := some 2 }

/-- A continued packet (0x3FC: no startofpacket) that just fits the 16 bytes, and a new one over a stale cursor. -/
theorem witness_WaitAppendStores :
    (let s := at_ aWait .wApp (appendWork 8 0x3FC)
     s.fsm = .wApp ∧ s.mem.wf ∧ s.work.cursor = some 8 ∧ s.work.s = some 0x3FC ∧ s.work.u = some 1 ∧
       s.work.l = some 2 ∧ 8 = (if sopOf s.cfg 0x3FC then 0 else 8) ∧ 8 + 8 ≤ 16) ∧
    (let s := at_ aWait .wApp (appendWork 64 0x3FD)
     s.fsm = .wApp ∧ s.mem.wf ∧ s.work.cursor = some 64 ∧ s.work.s = some 0x3FD ∧
       0 = (if sopOf s.cfg 0x3FD then 0 else 64) ∧ 0 + 8 ≤ 16) := by decide

/-- No room for the lower word (extent 11), and room for it alone (extent 12 and 15), at cursor 8. -/
theorem witness_WaitAppendOutOfBounds :
    (let s := at_ aWait .wApp (appendWork 8 0x3FC)
     s.fsm = .wApp ∧ s.mem.wf ∧ s.work.cursor = some 8 ∧ s.work.s = some 0x3FC ∧ s.work.u = some 1 ∧
       s.work.l = some 2 ∧ 8 = (if sopOf s.cfg 0x3FC then 0 else 8)) ∧
    11 < 8 + 4 ∧ (8 + 4 ≤ 12 ∧ 12 < 8 + 8) ∧ (8 + 4 ≤ 15 ∧ 15 < 8 + 8) := by decide

/-- W-9: 72 bytes are 18 words, which exceed 16; W-8: 64 bytes are 16 words, which do not. -/
theorem witness_WaitOverflowTest :
    (at_ aWait .wOvf { cursor := some 72 }).fsm = .wOvf ∧
    (at_ aWait .wOvf { cursor := some 72 }).work.cursor = some 72 ∧ 72 / 4 > 16 ∧ ¬ 64 / 4 > 16 := by decide

theorem witness_WaitEndOfPacket :
    (let s := at_ aWait .wEop { cursor := some 16, s := some 0x3FE }
     s.fsm = .wEop ∧ s.work.cursor = some 16 ∧ s.work.s = some 0x3FE ∧ (0x3FE : Word).getLsbD s.cfg.eopPos = true) ∧
    (0x3FD : Word).getLsbD Config.exampleParams.eopPos = false := by decide

/-- The status words 0x3FE and 0x2 differ in byteenable alone. -/
theorem witness_ReceivedByteenableIgnored :
    let s := at_ aWait .wEop { cursor := some 16, s := some 0x3FE }
    s.fsm = .wEop ∧ s.work.s = some 0x3FE ∧
      (0x2 : Word).getLsbD s.cfg.sopPos = (0x3FE : Word).getLsbD s.cfg.sopPos ∧
      (0x2 : Word).getLsbD s.cfg.eopPos = (0x3FE : Word).getLsbD s.cfg.eopPos ∧
      ∃ t, exec aWait s = .next t :=
  ⟨rfl, rfl, by decide, by decide, _, rfl⟩

/-- The read of the upper word, and the next status read, follow the read of a status word as well. -/
theorem witness_ReceivedByteenableIgnored_reads :
    (∃ t, exec aWait (at_ aWait .wUp { cursor := some 0, s := some 0x3FE }) = .next t) ∧
    (∃ t, exec aWait (at_ aWait .wLo { cursor := some 0, s := some 0x3FE, u := some 1 }) = .next t) ∧
    ∃ t, exec aWait (at_ aWait .wSt { cursor := some 8, s := some 0x3FC }) = .next t :=
  ⟨⟨_, rfl⟩, ⟨_, rfl⟩, ⟨_, rfl⟩⟩

/-- Every state of the drain, RXF empty and not, the idle count at its end. -/
theorem witness_DrainStates :
    (at_ .callDrainPcieCore .dRdy {}).fsm = .dRdy ∧ (at_ .callDrainPcieCore .dRdy {}).rxf ≠ [] ∧
    (run .callDrainPcieCore).fsm = .idle ∧ (run .callDrainPcieCore).rxf = [] ∧
    (at_ .callDrainPcieCore .dSt {}).rxf = e1 :: [e2] ∧ (at_ .callDrainPcieCore .dSt {}).fsm = .dSt ∧
    (at_ .callDrainPcieCore .dUp {}).fsm = .dUp ∧ (at_ .callDrainPcieCore .dLo {}).fsm = .dLo ∧
    (at_ .callDrainPcieCore .dSpin { k := some 0 }).fsm = .dSpin ∧
    (at_ .callDrainPcieCore .dSpin { k := some 0 }).work.k = some 0 := by decide

theorem witness_DrainEmptiesFifo :
    (at_ .callDrainPcieCore .idle {}).fsm = .idle ∧
    (at_ .callDrainPcieCore .idle {}).fetch = .op .callDrainPcieCore := by decide

/-- W-8's shape with two entries: the last one alone carries endofpacket, and the capacity is the least allowed. -/
theorem witness_WaitReassemblesPacket :
    let i : Instr := .callWaitForTlp ⟨0x1000, 16⟩ 4 100
    let s : State := { run i with rxf := [⟨0x3FD, 1, 2⟩] ++ e2 :: [e1], env := { ticks := [0, 98, 1] } }
    s.fsm = .idle ∧ s.fetch = .op i ∧ s.mem.wf ∧ 0x1000 % 8 = 0 ∧ 4 < 2 ^ 32 ∧
      s.rxf = [⟨0x3FD, 1, 2⟩] ++ e2 :: [e1] ∧
      (∀ e ∈ ([⟨0x3FD, 1, 2⟩] : List Entry), eopOf s.cfg e.st = false) ∧ eopOf s.cfg e2.st = true ∧
      2 * (1 + 1) ≤ 4 ∧ 8 * (1 + 1) ≤ 16 ∧ 1 + 2 ≤ s.env.ticks.length ∧
      s.cntLast.getD 0 + (s.env.ticks.take (1 + 2)).sum < 100 := by decide

/-- The registers of an emission. -/
def emitWork : Work := { qs := some 1, qe := some 0, qu := some 1, ql := some 2, kont := some .sHold }

/-- Each state of an emission; at the push: no latch written, TXF full, and room. -/
theorem witness_QuadEmissionWrites :
    (at_ aSend .qSt emitWork).fsm = .qSt ∧ (at_ aSend .qSt emitWork).work.qs = some 1 ∧
    (at_ aSend .qSt emitWork).work.qe = some 0 ∧ (at_ aSend .qUp emitWork).fsm = .qUp ∧
    (at_ aSend .qUp emitWork).work.qu = some 1 ∧ (at_ aSend .qLo emitWork).fsm = .qLo ∧
    (at_ aSend .qLo emitWork).work.ql = some 2 ∧ (at_ aSend .qLo emitWork).work.kont = some .sHold ∧
    (at_ aSend .qLo emitWork).txs = none ∧
    (let s := { at_ aSend .qLo emitWork with txs := some 1, txu := some 1, txf := [e1, e1, e1, e1] }
     s.txs = some 1 ∧ s.txu = some 1 ∧ s.txf.length = s.cfg.txDepth) ∧
    (let s := { at_ aSend .qLo emitWork with txs := some 1, txu := some 1, txf := [e1, e1, e1] }
     s.txs = some 1 ∧ s.txu = some 1 ∧ s.txf.length ≠ s.cfg.txDepth) := by decide

theorem witness_QuadEmissionPushesOneEntry :
    let s := { at_ aSend .qSt emitWork with txf := [e1, e1, e1] }
    s.fetch = .op aSend ∧ s.fsm = .qSt ∧ s.work.qs = some 1 ∧ s.work.qe = some 0 ∧ s.work.qu = some 1 ∧
      s.work.ql = some 2 ∧ s.work.kont = some .sHold ∧ s.txf.length < s.cfg.txDepth := by decide

theorem witness_SendTlpRefusals : (run aSend).fsm = .idle ∧ (at_ aSend .sQw0 {}).fsm = .sQw0 := by decide

/-- How a `send_tlp` with these operands is refused at its entry, if it is. -/
def sendRefusal (header : Buffer) (headerLen : Nat) (data : Option Buffer) (dataLen alignment : Nat) :=
  seen (exec (.callSendTlp header headerLen data dataLen alignment) (run aSend)) State.refused

/-- Each refusal (S-12, S-13, S-15, S-16 and a misaligned data buffer), the last data length in range and the first that is
not, a misaligned data buffer of which nothing is sent (R76, log 33), and the clause that goes on with absent data. -/
theorem witness_SendTlpRefusals_clauses :
    sendRefusal headerBuf 8 (some dataBuf) 8 1 = some (some .hdrLen) ∧
    sendRefusal headerBuf 12 (some dataBuf) 6 1 = some (some .dataLen) ∧
    sendRefusal headerBuf 12 (some dataBuf) (2 ^ 31) 1 = some (some .lenRange) ∧
    sendRefusal headerBuf 12 (some dataBuf) (2 ^ 31 - 4) 1 = some none ∧
    sendRefusal headerBuf 12 (some dataBuf) 8 7 = some (some .alignMode) ∧
    sendRefusal ⟨0x2004, 16⟩ 12 (some dataBuf) 8 1 = some (some .bufAlign) ∧
    sendRefusal headerBuf 12 (some ⟨0x2014, 8⟩) 8 1 = some (some .bufAlign) ∧
    sendRefusal headerBuf 12 (some ⟨0x2014, 8⟩) 0 1 = some (some .bufAlign) ∧ sendRefusal headerBuf 12 none 0 1 = some none := by
  decide

/-- A header of just 8 owned bytes, one of 7, both alignment codes, data absent and present. -/
theorem witness_SendSeedQuadword :
    (run aSend).fsm = .idle ∧ (12 = 12 ∨ 12 = 16) ∧ 8 % 4 = 0 ∧ 8 < 2 ^ 31 ∧
    (0 = (run aSend).cfg.alignedCode ∨ 0 = (run aSend).cfg.unalignedCode) ∧
    (1 = (run aSend).cfg.alignedCode ∨ 1 = (run aSend).cfg.unalignedCode) ∧ headerBuf.base % 8 = 0 ∧
    (∃ d, some dataBuf = some d ∧ d.base % 8 = 0) ∧ 8 ≤ (⟨0x2000, 8⟩ : Buffer).extent ∧
    (⟨0x2000, 7⟩ : Buffer).extent < 8 :=
  ⟨rfl, by decide, by decide, by decide, by decide, by decide, by decide, ⟨dataBuf, rfl, by decide⟩, by decide, by decide⟩

theorem witness_SendHoldBranchRelease :
    (at_ aSend .sHold {}).fsm = .sHold ∧ (at_ aSend .sBr {}).fsm = .sBr ∧ (at_ aSend .sRel {}).fsm = .sRel := by decide

/-- A header of 12 owned bytes with `data_len = 4`, and one of 11. -/
theorem witness_SendMergedQuadword :
    (at_ aSend .sM {}).fsm = .sM ∧ srcOwned ⟨0x2000, 12⟩ 12 8 ∧ srcOwned (dataBuffer (some dataBuf)) 4 0 ∧
    srcOwned (dataBuffer none) 0 0 ∧
    ¬ (srcOwned ⟨0x2000, 11⟩ 12 8 ∧ srcOwned (dataBuffer (some dataBuf)) 4 0) := by decide

/-- A 12-byte header, whose upper half is drawn, and a 16-byte one of which 15 are owned. -/
theorem witness_SendGenericQuadword :
    (at_ aSend .sG {}).fsm = .sG ∧ srcOwned ⟨0x2000, 12⟩ 12 12 ∧ srcOwned ⟨0x2000, 12⟩ 12 8 ∧
    ¬ (srcOwned ⟨0x2000, 15⟩ 16 12 ∧ srcOwned ⟨0x2000, 15⟩ 16 8) := by decide

/-- Data used up, data left, and data left that the caller does not own (S-18). -/
theorem witness_SendDataQuadwords :
    (at_ aSend .sUl { bi := some 4 }).fsm = .sUl ∧ (at_ aSend .sUl { bi := some 4 }).work.bi = some 4 ∧ 4 ≤ 4 ∧
    (4 < 8 ∧ srcOwned (dataBuffer (some dataBuf)) 8 (4 + 4) ∧ srcOwned (dataBuffer (some dataBuf)) 8 4) ∧
    ¬ (srcOwned (dataBuffer (some ⟨0x2010, 4⟩)) 8 (4 + 4) ∧ srcOwned (dataBuffer (some ⟨0x2010, 4⟩)) 8 4) := by decide

/-- S-3, three quadwords into a FIFO with room for just three. -/
theorem witness_SendTlpBurst :
    let s : State := { run aSend with txf := [e1] }
    s.fsm = .idle ∧ s.fetch = .op aSend ∧ (12 = 12 ∨ 12 = 16) ∧ 8 % 4 = 0 ∧ 8 < 2 ^ 31 ∧
      (1 = s.cfg.alignedCode ∨ 1 = s.cfg.unalignedCode) ∧ headerBuf.base % 8 = 0 ∧ 12 ≤ headerBuf.extent ∧
      (∃ d, some dataBuf = some d ∧ d.base % 8 = 0 ∧ 8 ≤ d.extent) ∧
      3 = sendCount (decide (12 = 12 ∧ 1 = s.cfg.unalignedCode)) 8 ∧ s.txf.length + 3 ≤ s.cfg.txDepth :=
  ⟨rfl, by decide, by decide, by decide, by decide, by decide, by decide, by decide,
    ⟨dataBuf, rfl, by decide, by decide⟩, by decide, by decide⟩

theorem witness_UnalignedEntryAndHook :
    (run aFlat).fsm = .idle ∧ (at_ aFlat .uInit {}).fsm = .uInit ∧ (at_ aFlat .uHook {}).fsm = .uHook := by decide

/-- Where the clauses meet: the first length out of range (U-12), the last in range, a misaligned base (U-11), and one of
which nothing is sent (R76, log 33). -/
theorem witness_UnalignedEntryAndHook_clauses :
    seen (exec (.callSendTlpUnaligned flatBuf (2 ^ 31 - 7)) (run aFlat)) State.refused = some (some .lenRange) ∧
    seen (exec (.callSendTlpUnaligned flatBuf (2 ^ 31 - 8)) (run aFlat)) State.fsm = some .uLoop ∧
    seen (exec (.callSendTlpUnaligned ⟨0x3004, 8⟩ 8) (run aFlat)) State.refused = some (some .bufAlign) ∧
    seen (exec (.callSendTlpUnaligned ⟨0x3004, 8⟩ 0) (run aFlat)) State.refused = some (some .bufAlign) := by decide

/-- The end of the loop, the zero-pad case (U-2), the last quadword (U-8), and bytes not owned (U-13). -/
theorem witness_UnalignedLoopQuadword :
    (at_ aFlat .uLoop { q := some 1, n := some 2 }).fsm = .uLoop ∧
    (at_ aFlat .uLoop { q := some 1, n := some 2 }).work.q = some 1 ∧
    (at_ aFlat .uLoop { q := some 1, n := some 2 }).work.n = some 2 ∧ 2 ≤ 2 ∧
    (0 < 1 ∧ srcOwned flatBuf 1 (8 * 0) ∧ (0 + 1 < 1 → srcOwned flatBuf 1 (8 * 0 + 4))) ∧
    (1 < 2 ∧ srcOwned flatBuf 13 (8 * 1) ∧ (1 + 1 < 13 → srcOwned flatBuf 13 (8 * 1 + 4))) ∧
    ¬ (srcOwned ⟨0x2000, 8⟩ 16 (8 * 1) ∧ (1 + 1 < 16 → srcOwned ⟨0x2000, 8⟩ 16 (8 * 1 + 4))) := by decide

/-- U-10 with room for just its three quadwords, and U-1. -/
theorem witness_UnalignedBurst :
    (let s : State := { run aFlat with txf := [e1] }
     s.fsm = .idle ∧ s.fetch = .op aFlat ∧ 24 < 2 ^ 31 - 7 ∧ flatBuf.base % 8 = 0 ∧ 24 ≤ flatBuf.extent ∧
       3 = (24 + 7) / 8 ∧ s.txf.length + 3 ≤ s.cfg.txDepth) ∧
    (let s : State := { run (.callSendTlpUnaligned ⟨8, 0⟩ 0) with txf := [e1, e1, e1, e1] }
     s.fsm = .idle ∧ s.fetch = .op (.callSendTlpUnaligned ⟨8, 0⟩ 0) ∧ (⟨8, 0⟩ : Buffer).base % 8 = 0 ∧
       0 = (0 + 7) / 8 ∧ s.txf.length + 0 ≤ s.cfg.txDepth) := by decide

theorem witness_CloseConnectionsReturns :
    (run .callCloseConnections).fsm = .idle ∧ (at_ .callCloseConnections .ccExec {}).fsm = .ccExec := by decide

/-- Room for one entry, no room, nothing to deliver, an endless stream. -/
theorem witness_ReceiveLinkDelivers :
    (let s : State := { run .rdRxReady with rxf := [e1, e1, e1], rxStream := e2 :: [] }
     s.rxStream = e2 :: [] ∧ s.rxf.length < s.cfg.rxDepth) ∧
    (let s : State := { run .rdRxReady with rxf := [e1, e1, e1, e1] }; s.rxf.length ≥ s.cfg.rxDepth) ∧
    ((run .rdRxReady).rxStream = [] ∧ (run .rdRxReady).rxEndless = false) ∧
    (let s : State := { run .rdRxReady with rxEndless := true }
     s.rxStream = [] ∧ s.rxEndless = true ∧ s.rxf.length < s.cfg.rxDepth) := by decide

/-- The hold, an empty FIFO, an entry that leaves, and the two cases of a loopback run. -/
theorem witness_TransmitLinkRemoves :
    ({ run .rdRxReady with qe := 0 } : State).qe = 0 ∧ (run .rdRxReady).txf = [] ∧
    (let s : State := { run .rdRxReady with txf := e1 :: [] }
     s.qe = 1 ∧ s.txf = e1 :: [] ∧ s.loopback = false) ∧
    (let s : State := { run .rdRxReady with txf := e1 :: [], loopback := true, rxf := [e1, e1, e1] }
     s.qe = 1 ∧ s.loopback = true ∧ s.rxf.length < s.cfg.rxDepth) ∧
    (let s : State := { run .rdRxReady with txf := e1 :: [], loopback := true, rxf := [e1, e1, e1, e1] }
     s.qe = 1 ∧ ¬ s.rxf.length < s.cfg.rxDepth) := by decide

theorem witness_StepRunsDecodedOperation :
    (let s : State := { run aSend with env := { turns := [.framer] } }
     s.nextTurn.1 = .framer ∧ s.fsm ≠ .faulted ∧ s.fsm ≠ .refused ∧ s.program[s.hp]? = some (encode aSend)) ∧
    decode (encode aSend) = .ok aSend ∧ decodeTableWord 8 0x14 = some (.callSendTlp ⟨0, 0⟩ 0 none 0 0) :=
  ⟨by decide, rfl, by decide⟩

theorem witness_UnknownOperationRefused :
    let s : State := { run .rdRxReady with program := [.call 0x17 .none] }
    s.fsm = .idle ∧ s.program[s.hp]? = some (.call 0x17 .none) ∧ decode (.call 0x17 .none) = .error .reservedSelector :=
  ⟨rfl, rfl, rfl⟩

theorem witness_HaltedFramerHasNoStep :
    ((run .rdTxStatus).raise (.illegalAccess 4)).fsm = .faulted ∧ ((run aSend).refuse .hdrLen).fsm = .refused ∧
    (let s : State := { run .rdRxReady with hp := 1 }; s.fsm = .idle ∧ s.hp = s.program.length) ∧
    ({ run aSend with env := { turns := [.rxLink] } } : State).nextTurn.1 = .rxLink ∧
    ({ run aSend with env := { turns := [.txLink] } } : State).nextTurn.1 = .txLink := by decide

/-- A well-formed launch with both FIFOs at their depth and caller bytes, and one whose framing bits coincide (R9). -/
theorem witness_LaunchState :
    (let l : Launch :=
       { cfg := { Config.exampleParams with rxDepth := 1, txDepth := 1 }, rxf0 := [e1], txf0 := [e2], cells := [(0, 1), (9, 2)] }
     l.cfg.wf ∧ l.rxf0.length ≤ l.cfg.rxDepth ∧ l.txf0.length ≤ l.cfg.txDepth ∧ l.loopback = false ∧
       (l.cells.map Prod.fst).Nodup) ∧
    ¬ ({ Config.exampleParams with eopPos := 0 } : Params).wf := by decide

/-- A state in mid-call meets the invariant: an append at cursor 8, its registers written. -/
theorem witness_Inv_midCall : (at_ aWait .wApp (appendWork 8 0x3FC)).Inv where
  memWf := by decide
  rxFits := by decide
  txFits := by decide
  configured := by decide
  faultMark := by decide
  refuseMark := by decide
  control := by decide
  hpBound := by decide
  idleWork := by decide
  cursorAligned := fun c h => by cases h; decide
  loopbackStream := by decide

/-- A faulted state meets it, registers kept. -/
theorem witness_Inv_faulted : ((at_ aSend .qLo emitWork).raise .txFull).Inv where
  memWf := by decide
  rxFits := by decide
  txFits := by decide
  configured := by decide
  faultMark := by decide
  refuseMark := by decide
  control := by decide
  hpBound := by decide
  idleWork := by decide
  cursorAligned := fun c h => by cases h
  loopbackStream := by decide

/-- The premise of the invariant's statements (StepKeepsInvariant, StepNeverStops, StepRecordsOnlyGrow) together with
a step. -/
theorem witness_Inv_step :
    (at_ aWait .wApp (appendWork 8 0x3FC)).Inv ∧ ∃ t, step (at_ aWait .wApp (appendWork 8 0x3FC)) = .next t := by
  refine ⟨witness_Inv_midCall, ?_⟩
  unfold step
  split
  · rename_i h; cases (Prod.mk.inj h).2; exact ⟨_, rfl⟩
  · exact ⟨_, rfl⟩
  · exact ⟨_, rfl⟩

/-- Steps of the gate's three writers and of an instruction that is none (QueueGateWriters). -/
theorem witness_QueueGateWriters :
    (∃ t, exec (.wrTxQueueenable 0) (run (.wrTxQueueenable 0)) = .next t) ∧ (∃ t, exec aSend (at_ aSend .sHold {}) = .next t) ∧
    (∃ t, exec aSend (at_ aSend .sRel {}) = .next t) ∧ ∃ t, exec aFlat (at_ aFlat .uHook {}) = .next t :=
  ⟨⟨_, rfl⟩, ⟨_, rfl⟩, ⟨_, rfl⟩, ⟨_, rfl⟩⟩

/-- A step of each agent (FifosKeepOrder). -/
theorem witness_FifosKeepOrder :
    (∃ t, step { run aFlat with env := { turns := [.framer] } } = .next t) ∧
    (∃ t, step { run aFlat with env := { turns := [.rxLink] } } = .next t) ∧
    ∃ t, step { run aFlat with txf := [e1], env := { turns := [.txLink] } } = .next t :=
  ⟨⟨_, rfl⟩, ⟨_, rfl⟩, ⟨_, rfl⟩⟩

/-- The hook's own step, and a step of another instruction (HookOnlyAtEndOfUnaligned). -/
theorem witness_HookOnlyAtEndOfUnaligned :
    (∃ t, exec aFlat (at_ aFlat .uHook {}) = .next t) ∧ ∃ t, exec aSend (at_ aSend .sRel {}) = .next t :=
  ⟨⟨_, rfl⟩, ⟨_, rfl⟩⟩

/-! ### Runs -/

/-- The state after a step; a stop leaves it. -/
def after (s : State) : State :=
  match step s with
  | .next t => t
  | _ => s

/-- The states of a call with deadline 0 on an empty RXF: it times out at its second step. -/
def waitStart : State := run (.callWaitForTlp aWaitAt 16 0)
def waitAtDeadline : State := after { waitStart with env := { turns := [.framer] } }
def waitReturned : State := after { waitAtDeadline with env := { turns := [.framer], ticks := [1] } }

/-- That run: no step after the return changes anything. -/
def waitRun : Nat → State
  | 0 => waitStart
  | 1 => waitAtDeadline
  | _ + 2 => waitReturned

/-- Its draws: the framer's turn, the counter one further, and then the framer's turn for ever. -/
def waitDraws : Nat → Env
  | 0 => { turns := [.framer] }
  | 1 => { turns := [.framer], ticks := [1] }
  | _ + 2 => { turns := [.framer], draws := 1 }

/-- No step of that run reads the counter once the call has returned. -/
theorem waitRun_reads_end {k c : Nat} (hk : 2 ≤ k) : ¬ readsCounterAt waitRun k c := by
  obtain ⟨n, rfl⟩ := Nat.exists_eq_add_of_le' hk
  rintro ⟨es, h, he⟩
  have : waitReturned.trace = waitReturned.trace ++ es := h
  simp [List.self_eq_append_right.mp this] at he

theorem waitStart_inv : waitStart.Inv where
  memWf := by decide
  rxFits := by decide
  txFits := by decide
  configured := by decide
  faultMark := by decide
  refuseMark := by decide
  control := by decide
  hpBound := by decide
  idleWork := by decide
  cursorAligned := fun c h => by cases h
  loopbackStream := by decide

/-- Every premise of WaitEndsUnderFairCounter, together. -/
theorem witness_WaitEndsUnderFairCounter :
    IsRun waitRun waitDraws ∧ TurnsFair waitRun waitDraws .framer ∧ CounterFair waitRun ∧ (waitRun 0).Inv ∧
    (waitRun 0).fetch = .op (.callWaitForTlp aWaitAt 16 0) ∧ callEnded (waitRun 0) (waitRun 2) := by
  refine ⟨fun k => ?_, fun k => ⟨k, Nat.le_refl k, ?_⟩, fun h => ?_, waitStart_inv, rfl, .inl ⟨rfl, rfl, rfl⟩⟩
  · match k with
    | 0 => rfl
    | 1 => rfl
    | _ + 2 => rfl
  · match k with
    | 0 => rfl
    | 1 => rfl
    | _ + 2 => rfl
  · obtain ⟨j, c, hj, hr⟩ := h 2
    exact absurd hr (waitRun_reads_end hj)

/-- One entry in TXF under a released gate and no program; the transmit link takes every turn. -/
def txStart : State := State.launch { cfg := Config.exampleParams, qe := 1, txf0 := [e1] }
def txRun : Nat → State
  | 0 => txStart
  | _ + 1 => after { txStart with env := { turns := [.txLink] } }

/-- Every premise of TransmitLinkDrainsUnderFairTurns, together. -/
theorem witness_TransmitLinkDrainsUnderFairTurns :
    IsRun txRun (fun _ => { turns := [.txLink] }) ∧ TurnsFair txRun (fun _ => { turns := [.txLink] }) .txLink ∧
    (txRun 0).loopback = false ∧ (∀ k, (txRun k).qe = 1) ∧ (txRun 0).txf = e1 :: [] ∧
    (txRun 0).txf = e1 :: (txRun 1).txf ∧ (txRun 1).trace = (txRun 0).trace ++ [.linkTx e1] := by
  refine ⟨fun k => ?_, fun k => ⟨k, Nat.le_refl k, rfl⟩, rfl, fun k => ?_, rfl, rfl, rfl⟩
  · cases k <;> rfl
  · cases k <;> rfl

end Sys2Proof.Tests
end

section
/-! The framer's turn and the machine's step, case by case: the converses of `framerStep_next`, `fetch_op` and
`step_cases`, and the statements O48 and O50 that they settle. -/

namespace Sys2Proof.Machine

/-! ### What the framer finds -/

theorem fetch_eq_op_iff {s : State} {i : Instr} :
    s.fetch = .op i ↔
      s.fsm ≠ .faulted ∧ s.fsm ≠ .refused ∧ ∃ raw, s.program[s.hp]? = some raw ∧ decode raw = .ok i := by
  refine ⟨fetch_op, ?_⟩
  rintro ⟨hf, hr, raw, hraw, hd⟩
  simp [State.fetch, hf, hr, hraw, hd]

theorem fetch_of_halted {s : State} (h : s.fsm = .faulted ∨ s.fsm = .refused) : s.fetch = .noStep := by
  simp [State.fetch, h]

theorem fetch_of_programEnd {s : State} (hi : s.fsm = .idle) (he : s.hp = s.program.length) :
    s.fetch = .noStep := by
  simp [State.fetch, hi, he]

/-- The framer is lost only in mid-call. -/
theorem fetch_lost {s : State} (h : s.fetch = .lost) :
    s.fsm ≠ .idle ∧ s.fsm ≠ .faulted ∧ s.fsm ≠ .refused := by
  unfold State.fetch at h
  split at h
  · cases h
  next hm =>
    obtain ⟨hf, hr⟩ := not_or.1 hm
    split at h
    · split at h
      · cases h
      next hi => exact ⟨hi, hf, hr⟩
    · split at h <;> cases h

/-! ### The turn of each agent -/

theorem framerStep_noStep {s : State} (h : s.fetch = .noStep) : framerStep s = .next s := by
  simp [framerStep, h]

theorem framerStep_rejected {s : State} {e : DecodeError} (h : s.fetch = .rejected e) :
    framerStep s = .next (s.refuse .unknownOp) := by
  simp [framerStep, h]

theorem framerStep_op {s : State} {i : Instr} (h : s.fetch = .op i) : framerStep s = exec i s := by
  simp [framerStep, h]

theorem step_framer {s : State} (h : s.nextTurn.1 = .framer) : step s = framerStep s.nextTurn.2 := by
  unfold step
  split <;> simp_all

theorem step_rxLink {s : State} (h : s.nextTurn.1 = .rxLink) : step s = .next (rxLinkStep s.nextTurn.2) := by
  unfold step
  split <;> simp_all

theorem step_txLink {s : State} (h : s.nextTurn.1 = .txLink) : step s = .next (txLinkStep s.nextTurn.2) := by
  unfold step
  split <;> simp_all

theorem decode_of_decodeTableWord {nbits w : Nat} {i : Instr} (h : decodeTableWord nbits w = some i) :
    decode (rawOfTable nbits w) = .ok i := by
  unfold decodeTableWord at h
  split at h
  next hd => cases h; exact hd
  · cases h

/-- Settles O48: on the framer's turn the operation that stands at `hp` is fetched and executed; a loaded word stands
at `hp` 0 with the framer's turn listed first. -/
theorem stepRunsDecodedOperation : Obligations.StepRunsDecodedOperation := by
  have framerTurn : ∀ (s : State) (raw : RawOp) (i : Instr),
      s.nextTurn.1 = .framer → s.fsm ≠ .faulted → s.fsm ≠ .refused → s.program[s.hp]? = some raw →
      decode raw = .ok i → ∃ env, s.nextTurn.2 = { s with env := env } ∧ step s = exec i { s with env := env } := by
    intro s raw i hturn hf hr hraw hd
    obtain ⟨env, henv⟩ := nextTurn_eq s
    have hfetch : ({ s with env := env } : State).fetch = .op i := fetch_eq_op_iff.2 ⟨hf, hr, raw, hraw, hd⟩
    exact ⟨env, henv, by rw [step_framer hturn, henv, framerStep_op hfetch]⟩
  refine ⟨framerTurn, fun s nbits w i h => ?_⟩
  obtain ⟨env, -, hstep⟩ := framerTurn (s.withFetchWord nbits w) (rawOfTable nbits w) i rfl
    (by simp [State.withFetchWord, State.withOperation]) (by simp [State.withFetchWord, State.withOperation]) rfl
    (decode_of_decodeTableWord h)
  exact ⟨env, hstep⟩

/-- Settles O50: a halted framer, and one at the end of the program, fetches nothing; a listed turn is the next one. -/
theorem haltedFramerHasNoStep : Obligations.HaltedFramerHasNoStep := by
  refine ⟨fun s h => ?_, fun s a => ⟨{ turns := [a] }, _, rfl⟩, fun s => ⟨step_rxLink, step_txLink⟩⟩
  rcases h with hf | hr | ⟨hi, he⟩
  · exact framerStep_noStep (fetch_of_halted (.inl hf))
  · exact framerStep_noStep (fetch_of_halted (.inr hr))
  · exact framerStep_noStep (fetch_of_programEnd hi he)

end Sys2Proof.Machine
end

section
/-! One framer step of an operation, seen from its control position: from every position that a run can stand in, the
step is answered, and it leaves such a position or halts the framer. The invariant's step (O53) and progress (O54) are
the two halves of `exec_proceeds`. -/

namespace Sys2Proof.Machine

/-! ### The device leaves the framer's own registers -/

theorem deviceRead_eq {r : Reg} {s t : State} {v : Word} (h : deviceRead r s = .ok (v, t)) :
    ∃ rxf, t = { s with rxf := rxf } := by
  rcases deviceRead_cases h with ⟨-, -, rfl⟩ | ⟨_, _, -, ⟨-, -, rfl⟩ | ⟨-, -, rfl⟩ | ⟨-, -, rfl⟩⟩ <;> exact ⟨_, rfl⟩

theorem deviceWrite_eq {r : Reg} {v : Word} {s t : State} (h : deviceWrite r v s = .ok t) :
    ∃ txf txs txu qe, t = { s with txf := txf, txs := txs, txu := txu, qe := qe } := by
  rcases deviceWrite_cases h with ⟨-, rfl⟩ | ⟨-, rfl⟩ | ⟨-, _, _, -, -, -, rfl⟩ | ⟨-, -, rfl⟩ <;>
    exact ⟨_, _, _, _, rfl⟩

/-! ### Answers with a property -/

/-- The outcome is a next state, and that state has the property. -/
def Answers (P : State → Prop) (o : StepOutcome) : Prop := ∃ t, o = .next t ∧ P t

theorem Answers.next {P : State → Prop} {t : State} (h : P t) : Answers P (.next t) := ⟨t, rfl, h⟩

theorem Answers.atEntry {P : State → Prop} {entry : Fsm} {s t : State} (he : s.fsm = .idle ∨ s.fsm = entry)
    (h : P t) : Answers P (atEntry entry s t) := ⟨t, if_pos he, h⟩

/-- A written register is read without a stop. -/
theorem Answers.readWork {α : Type} {P : State → Prop} {o : Option α} {f : α → StepOutcome} (ho : o.isSome = true)
    (h : ∀ a, o = some a → Answers P (f a)) : Answers P (readWork o f) := by
  obtain ⟨a, rfl⟩ := Option.isSome_iff_exists.1 ho
  exact h a rfl

/-! ### Positions of an operation -/

/-- The cursor, where written, is a multiple of 8 (R193 (d)). -/
def Work.Aligned (w : Work) : Prop := ∀ c, w.cursor = some c → 8 ∣ c

/-- The framer stands between calls or in a state of `i` with its registers written (R31 to R33). -/
structure CanStep (i : Instr) (s : State) : Prop where
  position : s.fsm = .idle ∨ (s.fsm ∈ statesOf i ∧ workReady i s.work s.fsm = true)
  aligned : s.work.Aligned

theorem CanStep.mem {i : Instr} {s : State} {f : Fsm} (h : CanStep i s) (hf : s.fsm = f) (hi : f ≠ .idle) :
    f ∈ statesOf i := by
  rcases h.position with h | h
  · exact absurd (hf ▸ h) hi
  · exact hf ▸ h.1

theorem CanStep.ready {i : Instr} {s : State} {f : Fsm} (h : CanStep i s) (hf : s.fsm = f) (hi : f ≠ .idle) :
    workReady i s.work f = true := by
  rcases h.position with h | h
  · exact absurd (hf ▸ h) hi
  · exact hf ▸ h.2

/-- How one framer step of `i` leaves the control position, the registers and the marks. -/
inductive Proceeds (i : Instr) (s t : State) : Prop where
  /-- A fault is taken (R281). -/
  | faults (fsm : t.fsm = .faulted) (fault : t.fault ≠ none) (refused : t.refused = s.refused)
      (aligned : t.work.Aligned)
  /-- A refusal is taken (R290). -/
  | refuses (fsm : t.fsm = .refused) (fault : t.fault = s.fault) (refused : t.refused ≠ none)
      (aligned : t.work.Aligned)
  /-- The operation returns (R33, R274). -/
  | returns (fsm : t.fsm = .idle) (work : t.work = { ret := t.work.ret }) (fault : t.fault = s.fault)
      (refused : t.refused = s.refused)
  /-- The operation goes on at one of its states, whose registers are written (R31, R32). -/
  | goesOn (mem : t.fsm ∈ statesOf i) (ready : workReady i t.work t.fsm = true) (aligned : t.work.Aligned)
      (hp : t.hp = s.hp) (fault : t.fault = s.fault) (refused : t.refused = s.refused)

namespace Proceeds

variable {i : Instr} {s t : State}

theorem raise (c : FaultCode) (ha : t.work.Aligned) (hr : t.refused = s.refused) : Proceeds i s (t.raise c) :=
  .faults rfl (by simp) hr ha

theorem refuse (r : RefuseReason) (ha : s.work.Aligned) : Proceeds i s (s.refuse r) := .refuses rfl rfl (by simp) ha

theorem finish (op : BitVec 8) (v : Result) (hf : t.fault = s.fault) (hr : t.refused = s.refused) :
    Proceeds i s (t.finish op v) := .returns rfl rfl hf hr

/-- The registers before the step do not count: `drain_pcie_core` unwrites them as it starts (R195). -/
theorem ofWork {w : Work} : Proceeds i { s with work := w } t → Proceeds i s t
  | .faults hf hm hr ha => .faults hf hm hr ha
  | .refuses hf hm hr ha => .refuses hf hm hr ha
  | .returns hf hw hm hr => .returns hf hw hm hr
  | .goesOn hf hw ha hp hm hr => .goesOn hf hw ha hp hm hr

/-- A bus read proceeds if what follows it does. -/
theorem busRead {r : Reg} {rest : Word → State → State} (ha : s.work.Aligned)
    (h : ∀ v rxf tr, Proceeds i s (rest v { s with rxf := rxf, trace := tr })) :
    Proceeds i s (onBusRead r s rest) := by
  rcases onBusRead_cases r s rest with ⟨c, -, e⟩ | ⟨v, t, hd, e⟩
  · rw [e]; exact raise c ha rfl
  · obtain ⟨rxf, rfl⟩ := deviceRead_eq hd
    rw [e]; exact h v rxf _

/-- A bus write proceeds if what follows it does. -/
theorem busWrite {r : Reg} {v : Word} {rest : State → State} (ha : s.work.Aligned)
    (h : ∀ txf txs txu qe tr, Proceeds i s
      (rest { s with txf := txf, txs := txs, txu := txu, qe := qe, trace := tr })) :
    Proceeds i s (onBusWrite r v s rest) := by
  rcases onBusWrite_cases r v s rest with ⟨c, -, e⟩ | ⟨t, hd, e⟩
  · rw [e]; exact raise c ha rfl
  · obtain ⟨txf, txs, txu, qe, rfl⟩ := deviceWrite_eq hd
    rw [e]; exact h txf txs txu qe _

theorem rawRead {r : Reg} (h : CanStep i s) (hs : statesOf i = [.bExec]) :
    Answers (Proceeds i s) (rawRead r s) :=
  .atEntry (h.position.imp_right fun hm => by simpa [hs] using hm.1)
    (busRead h.aligned fun _ _ _ => finish _ _ rfl rfl)

theorem rawWrite {r : Reg} {v : Word} (h : CanStep i s) (hs : statesOf i = [.bExec]) :
    Answers (Proceeds i s) (rawWrite r v s) :=
  .atEntry (h.position.imp_right fun hm => by simpa [hs] using hm.1)
    (busWrite h.aligned fun _ _ _ _ _ => finish _ _ rfl rfl)

/-! ### The receive path -/

/-- A deadline check (R183, R190) returns or goes on at the next state. -/
theorem waitDeadline {deadline : Nat} {next : Fsm} (ha : s.work.Aligned) (hm : next ∈ statesOf i)
    (hr : workReady i s.work next = true) : Proceeds i s (waitDeadline deadline next s) := by
  obtain ⟨c, env, hc, -⟩ := readCounter_spec s
  unfold Machine.waitDeadline
  simp only [hc]
  obtain ⟨b, env', he, -⟩ :=
    past_spec { s with cntLast := some c, trace := s.trace ++ [.cntRd c], env := env } c deadline
  rw [he]
  cases b
  · exact .goesOn hm hr ha rfl rfl rfl
  · exact finish _ _ rfl rfl

section wait

variable {buffer : Buffer} {cap deadline : Nat}

theorem waitInit (ha : s.work.Aligned) :
    Proceeds (.callWaitForTlp buffer cap deadline) s (waitInit buffer cap s) := by
  unfold Machine.waitInit
  split
  · exact refuse _ ha
  · exact .goesOn (by simp [statesOf]) rfl (fun c hc => by cases hc; exact dvd_zero 8) rfl rfl rfl

theorem waitAppend {cursor : Nat} {st up lo : Word} (ha : s.work.Aligned) (hc : 8 ∣ cursor)
    (hs : s.work.s.isSome = true) :
    Proceeds (.callWaitForTlp buffer cap deadline) s (waitAppend buffer cursor st up lo s) := by
  unfold Machine.waitAppend
  dsimp only
  split
  · exact raise _ ha rfl
  · split
    · exact raise _ ha rfl
    · refine .goesOn (by simp [statesOf]) (by simp [workReady, hs]) (fun c h => ?_) rfl rfl rfl
      cases h
      split
      · exact dvd_refl 8
      · exact (Nat.dvd_add_left (dvd_refl 8)).2 hc

/-- State `W_RDY` (R184): both successors need the cursor alone. -/
theorem waitReady (ha : s.work.Aligned) (hc : s.work.cursor.isSome = true) :
    Proceeds (.callWaitForTlp buffer cap deadline) s (waitReady s) :=
  busRead ha fun v _ _ => by
    cases hb : bitAt v 0
    · exact .goesOn (by simp [statesOf]) hc ha rfl rfl rfl
    · exact .goesOn (by simp [statesOf]) hc ha rfl rfl rfl

theorem waitOverflow {cursor : Nat} (ha : s.work.Aligned) (hw : s.work.cursor.isSome && s.work.s.isSome) :
    Proceeds (.callWaitForTlp buffer cap deadline) s (waitOverflow cap cursor s) := by
  unfold Machine.waitOverflow
  split
  · exact finish _ _ rfl rfl
  · exact .goesOn (by simp [statesOf]) hw ha rfl rfl rfl

theorem waitEop {cursor : Nat} {st : Word} (ha : s.work.Aligned) (hc : s.work.cursor.isSome = true) :
    Proceeds (.callWaitForTlp buffer cap deadline) s (waitEop cursor st s) := by
  unfold Machine.waitEop
  split
  · exact finish _ _ rfl rfl
  · exact .goesOn (by simp [statesOf]) hc ha rfl rfl rfl

theorem waitForTlp (h : CanStep (.callWaitForTlp buffer cap deadline) s) :
    Answers (Proceeds (.callWaitForTlp buffer cap deadline) s) (execCallWaitForTlp buffer cap deadline s) := by
  have ha := h.aligned
  unfold execCallWaitForTlp
  split
  next => exact .next (waitInit ha)
  next => exact .next (waitInit ha)
  next hf =>
    have hw := h.ready hf nofun
    exact .next (waitDeadline ha (by simp [statesOf]) hw)
  next hf => exact .next (waitReady ha (h.ready hf nofun))
  next hf =>
    have hw := h.ready hf nofun
    exact .next (busRead ha fun _ _ _ => .goesOn (by simp [statesOf]) (by simpa [workReady] using hw) ha rfl rfl rfl)
  next hf =>
    have hw := h.ready hf nofun
    exact .next (busRead ha fun _ _ _ => .goesOn (by simp [statesOf]) (by simpa [workReady] using hw) ha rfl rfl rfl)
  next hf =>
    have hw := h.ready hf nofun
    exact .next (busRead ha fun _ _ _ => .goesOn (by simp [statesOf]) (by simpa [workReady] using hw) ha rfl rfl rfl)
  next hf =>
    have hw := h.ready hf nofun
    simp only [workReady, Bool.and_eq_true] at hw
    obtain ⟨⟨⟨hc, hs⟩, hu⟩, hl⟩ := hw
    exact .readWork hc fun c hc => .readWork hs fun _ _ => .readWork hu fun _ _ => .readWork hl fun _ _ =>
      .next (waitAppend ha (ha c hc) hs)
  next hf =>
    have hw := h.ready hf nofun
    obtain ⟨hc, -⟩ := Bool.and_eq_true_iff.1 hw
    exact .readWork hc fun _ _ => .next (waitOverflow ha hw)
  next hf =>
    have hw := h.ready hf nofun
    exact .next (waitDeadline ha (by simp [statesOf]) hw)
  next hf =>
    obtain ⟨hc, hs⟩ := Bool.and_eq_true_iff.1 (h.ready hf nofun)
    exact .readWork hc fun _ _ => .readWork hs fun _ _ => .next (waitEop ha hc)
  next => have := h.position; simp_all [statesOf]

end wait

theorem drainReady (ha : s.work.Aligned) : Proceeds .callDrainPcieCore s (drainReady s) :=
  busRead ha fun _ _ _ => by
    split
    · exact .goesOn (by simp [statesOf]) rfl ha rfl rfl rfl
    · exact finish _ _ rfl rfl

theorem drainSpin {k : Nat} (ha : s.work.Aligned) (hs : s.fsm = .dSpin) :
    Proceeds .callDrainPcieCore s (drainSpin k s) := by
  unfold Machine.drainSpin
  split
  · exact .goesOn (by simp [statesOf, hs]) (by simp [workReady, hs]) ha rfl rfl rfl
  · exact .goesOn (by simp [statesOf]) rfl ha rfl rfl rfl

theorem drain (h : CanStep .callDrainPcieCore s) :
    Answers (Proceeds .callDrainPcieCore s) (execCallDrainPcieCore s) := by
  have ha := h.aligned
  unfold execCallDrainPcieCore
  split
  next => exact .next (ofWork (drainReady nofun))
  next => exact .next (drainReady ha)
  next => exact .next (busRead ha fun _ _ _ => .goesOn (by simp [statesOf]) rfl ha rfl rfl rfl)
  next => exact .next (busRead ha fun _ _ _ => .goesOn (by simp [statesOf]) rfl ha rfl rfl rfl)
  next => exact .next (busRead ha fun _ _ _ => .goesOn (by simp [statesOf]) rfl ha rfl rfl rfl)
  next hf =>
    have hk := h.ready hf nofun
    exact .readWork hk fun _ _ => .next (drainSpin ha hf)
  next => have := h.position; simp_all [statesOf]

/-! ### The transmit path -/

theorem loopReady_of_emission (w : Work) (qs qe : Option (BitVec 1)) (qu ql : Option Word) (k : Option Fsm) (f : Fsm) :
    loopReady { w with qs := qs, qe := qe, qu := qu, ql := ql, kont := k } f = loopReady w f := by
  cases f <;> rfl

/-- Two source double-words proceed if what follows them does. -/
theorem quad {upper lower : State → Except FaultCode (Word × State)} {rest : Word → Word → State → State}
    (ha : s.work.Aligned)
    (hu : ∀ a v b, upper a = .ok (v, b) → ∃ env, b = { a with env := env })
    (hl : ∀ a v b, lower a = .ok (v, b) → ∃ env, b = { a with env := env })
    (h : ∀ hi lo env, Proceeds i s (rest hi lo { s with env := env })) : Proceeds i s (withQuad upper lower s rest) := by
  rcases withQuad_cases upper lower s rest with ⟨c, e⟩ | ⟨hi, t, lo, t', e1, e2, e⟩
  · rw [e]; exact raise c ha rfl
  · obtain ⟨n, rfl⟩ := hu _ _ _ e1
    obtain ⟨n', rfl⟩ := hl _ _ _ e2
    rw [e]; exact h hi lo n'

/-- An emission goes on at `Q_ST` where its continuation is a loop state that finds its registers (R220). -/
theorem emitQuad {qs qe : Bool} {qu ql : Word} {kont : Fsm} {w : Work} {env : Env} (hq : .qSt ∈ statesOf i)
    (hk : kont ∈ statesOf i) (hl : kont ∈ [Fsm.sHold, .sUl, .sAl, .uLoop]) (hr : loopReady w kont = true)
    (ha : w.Aligned) : Proceeds i s (emitQuad qs qe qu ql kont { s with env := env, work := w }) :=
  .goesOn hq
    (by
      have hkont : kontReady i (Machine.emitQuad qs qe qu ql kont { s with env := env, work := w }).work = true := by
        simp only [kontReady, Machine.emitQuad, loopReady_of_emission, hr, List.contains_iff_mem.2 hk,
          List.contains_iff_mem.2 hl, Bool.and_self]
      simpa [workReady, Machine.emitQuad] using hkont)
    ha rfl rfl rfl

/-- State `Q_ST` of either transmit call (R220). -/
theorem quadStatus (h : CanStep i s) (hf : s.fsm = .qSt) (hm : .qUp ∈ statesOf i) :
    Answers (Proceeds i s)
      (readWork s.work.qs fun qs => readWork s.work.qe fun qe => .next (quadStatus qs qe s)) := by
  have hw := h.ready hf nofun
  simp only [workReady, Bool.and_eq_true] at hw
  obtain ⟨⟨⟨⟨hqs, hqe⟩, hqu⟩, hql⟩, hk⟩ := hw
  exact .readWork hqs fun _ _ => .readWork hqe fun _ _ => .next <| busWrite h.aligned fun _ _ _ _ _ =>
    .goesOn hm (by simp [workReady, hqu, hql, hk]) h.aligned rfl rfl rfl

/-- State `Q_UP` of either transmit call (R220). -/
theorem quadUpper (h : CanStep i s) (hf : s.fsm = .qUp) (hm : .qLo ∈ statesOf i) :
    Answers (Proceeds i s) (readWork s.work.qu fun qu => .next (quadUpper qu s)) := by
  have hw := h.ready hf nofun
  simp only [workReady, Bool.and_eq_true] at hw
  obtain ⟨⟨hqu, hql⟩, hk⟩ := hw
  exact .readWork hqu fun _ _ => .next <| busWrite h.aligned fun _ _ _ _ _ =>
    .goesOn hm (by simp [workReady, hql, hk]) h.aligned rfl rfl rfl

/-- A ready continuation is a state of the operation whose registers are written (R220). -/
theorem kontReady_cases {w : Work} (h : kontReady i w = true) :
    ∃ f, w.kont = some f ∧ f ∈ statesOf i ∧ workReady i w f = true := by
  unfold kontReady at h
  split at h
  next f hk =>
    simp only [Bool.and_eq_true, List.contains_iff_mem, List.mem_cons, List.not_mem_nil, or_false] at h
    obtain ⟨⟨hm, hl⟩, hr⟩ := h
    refine ⟨f, hk, hm, ?_⟩
    rcases hl with rfl | rfl | rfl | rfl <;> exact hr
  · cases h

/-- State `Q_LO` of either transmit call: on to the continuation (R220). -/
theorem quadLower (h : CanStep i s) (hf : s.fsm = .qLo) :
    Answers (Proceeds i s)
      (readWork s.work.ql fun ql => readWork s.work.kont fun kont => .next (quadLower ql kont s)) := by
  obtain ⟨hql, hk⟩ := Bool.and_eq_true_iff.1 (h.ready hf nofun)
  obtain ⟨f, hkont, hm, hr⟩ := kontReady_cases hk
  refine .readWork hql fun _ _ => .readWork (by simp [hkont]) fun kont he => .next ?_
  obtain rfl : f = kont := Option.some.inj (hkont.symm.trans he)
  exact busWrite h.aligned fun _ _ _ _ _ => .goesOn hm hr h.aligned rfl rfl rfl

section send

variable {header : Buffer} {headerLen : Nat} {data : Option Buffer} {dataLen alignment : Nat}

theorem sendSeed (ha : s.work.Aligned) :
    Proceeds (.callSendTlp header headerLen data dataLen alignment) s
      (sendSeed header headerLen data dataLen alignment s) := by
  unfold Machine.sendSeed
  split
  · exact refuse _ ha
  · exact quad ha (fun _ _ _ => srcDW_ok) (fun _ _ _ => srcDW_ok) fun _ _ _ =>
      emitQuad (by simp [statesOf]) (by simp [statesOf]) (by simp) rfl nofun

/-- States `S_UL` and `S_AL` (R230, R232). -/
theorem sendData {bi : Nat} {loop : Fsm} (ha : s.work.Aligned) (hl : loop = .sUl ∨ loop = .sAl) :
    Proceeds (.callSendTlp header headerLen data dataLen alignment) s
      (sendData (dataBuffer data) dataLen bi loop s) := by
  unfold Machine.sendData
  split
  · exact quad ha (fun _ _ _ => srcDW_ok) (fun _ _ _ => srcDW_ok) fun _ _ _ =>
      emitQuad (by simp [statesOf]) (by rcases hl with rfl | rfl <;> simp [statesOf])
        (by rcases hl with rfl | rfl <;> simp) (by rcases hl with rfl | rfl <;> rfl) ha
  · exact .goesOn (by simp [statesOf]) rfl ha rfl rfl rfl

theorem sendBranch (ha : s.work.Aligned) :
    Proceeds (.callSendTlp header headerLen data dataLen alignment) s (sendBranch headerLen alignment s) := by
  unfold Machine.sendBranch
  split
  · exact .goesOn (by simp [statesOf]) rfl ha rfl rfl rfl
  · exact .goesOn (by simp [statesOf]) rfl ha rfl rfl rfl

theorem sendTlp (h : CanStep (.callSendTlp header headerLen data dataLen alignment) s) :
    Answers (Proceeds (.callSendTlp header headerLen data dataLen alignment) s)
      (execCallSendTlp header headerLen data dataLen alignment s) := by
  have ha := h.aligned
  unfold execCallSendTlp
  split
  next => exact .next (sendSeed ha)
  next => exact .next (sendSeed ha)
  next hf => exact quadStatus h hf (by simp [statesOf])
  next hf => exact quadUpper h hf (by simp [statesOf])
  next hf => exact quadLower h hf
  next => exact .next (busWrite ha fun _ _ _ _ _ => .goesOn (by simp [statesOf]) rfl ha rfl rfl rfl)
  next => exact .next (sendBranch ha)
  next =>
    exact .next (quad ha (fun _ _ _ => srcDW_ok) (fun _ _ _ => srcDW_ok) fun _ _ _ =>
      emitQuad (by simp [statesOf]) (by simp [statesOf]) (by simp) rfl ha)
  next hf =>
    have hbi := h.ready hf nofun
    exact .readWork hbi fun _ _ => .next (sendData ha (.inl rfl))
  next =>
    exact .next (quad ha (fun _ _ _ => srcDW_ok) (fun _ _ _ => srcDW_ok) fun _ _ _ =>
      emitQuad (by simp [statesOf]) (by simp [statesOf]) (by simp) rfl ha)
  next hf =>
    have hbi := h.ready hf nofun
    exact .readWork hbi fun _ _ => .next (sendData ha (.inr rfl))
  next => exact .next (busWrite ha fun _ _ _ _ _ => finish _ _ rfl rfl)
  next => have := h.position; simp_all [statesOf]

end send

section unaligned

variable {tlp : Buffer} {tlpLen : Nat}

theorem unalignedInit (ha : s.work.Aligned) :
    Proceeds (.callSendTlpUnaligned tlp tlpLen) s (unalignedInit tlp tlpLen s) := by
  unfold Machine.unalignedInit
  split
  · exact refuse _ ha
  · exact .goesOn (by simp [statesOf]) rfl nofun rfl rfl rfl

theorem unalignedLoop {q n : Nat} (ha : s.work.Aligned) (hn : s.work.n.isSome = true) :
    Proceeds (.callSendTlpUnaligned tlp tlpLen) s (unalignedLoop tlp tlpLen q n s) := by
  unfold Machine.unalignedLoop
  split
  · exact quad ha (fun _ _ _ => srcDW_ok) (fun _ _ _ => unalignedUpper_ok) fun _ _ _ =>
      emitQuad (by simp [statesOf]) (by simp [statesOf]) (by simp) (by simp [loopReady, hn]) ha
  · exact .goesOn (by simp [statesOf]) rfl ha rfl rfl rfl

theorem sendTlpUnaligned (h : CanStep (.callSendTlpUnaligned tlp tlpLen) s) :
    Answers (Proceeds (.callSendTlpUnaligned tlp tlpLen) s) (execCallSendTlpUnaligned tlp tlpLen s) := by
  have ha := h.aligned
  unfold execCallSendTlpUnaligned
  split
  next => exact .next (unalignedInit ha)
  next => exact .next (unalignedInit ha)
  next hf =>
    obtain ⟨hq, hn⟩ := Bool.and_eq_true_iff.1 (h.ready hf nofun)
    exact .readWork hq fun _ _ => .readWork hn fun _ _ => .next (unalignedLoop ha hn)
  next hf => exact quadStatus h hf (by simp [statesOf])
  next hf => exact quadUpper h hf (by simp [statesOf])
  next hf => exact quadLower h hf
  next => exact .next (finish _ _ rfl rfl)
  next => have := h.position; simp_all [statesOf]

end unaligned

/-! ### The one-state calls -/

theorem mask {w : Precision} {width : Nat} (h : CanStep (.callMask w width) s) :
    Answers (Proceeds (.callMask w width) s) (execCallMask w width s) := by
  refine .atEntry (h.position.imp_right fun hm => by simpa [statesOf] using hm.1) ?_
  unfold maskExec
  split
  · exact raise _ h.aligned rfl
  · exact finish _ _ rfl rfl

theorem maskEnableBits {w : Precision} {high low : Nat} (h : CanStep (.callMaskEnableBits w high low) s) :
    Answers (Proceeds (.callMaskEnableBits w high low) s) (execCallMaskEnableBits w high low s) := by
  refine .atEntry (h.position.imp_right fun hm => by simpa [statesOf] using hm.1) ?_
  unfold maskEnableExec
  split
  · exact raise _ h.aligned rfl
  · exact finish _ _ rfl rfl

theorem closeConnections (h : CanStep .callCloseConnections s) :
    Answers (Proceeds .callCloseConnections s) (execCallCloseConnections s) :=
  .atEntry (h.position.imp_right fun hm => by simpa [statesOf] using hm.1) (finish _ _ rfl rfl)

end Proceeds

/-- From every position an operation is at, one framer step of it is answered, and it proceeds. -/
theorem exec_proceeds {i : Instr} {s : State} (h : CanStep i s) : Answers (Proceeds i s) (exec i s) := by
  cases i
  case callMask => exact Proceeds.mask h
  case callMaskEnableBits => exact Proceeds.maskEnableBits h
  case callWaitForTlp => exact Proceeds.waitForTlp h
  case callDrainPcieCore => exact Proceeds.drain h
  case callSendTlp => exact Proceeds.sendTlp h
  case callSendTlpUnaligned => exact Proceeds.sendTlpUnaligned h
  case callCloseConnections => exact Proceeds.closeConnections h
  case wrRxReady | wrRxStatus | wrRxUpper32 | wrRxLower32deq | wrTxStatus | wrTxUpper32 | wrTxLower32send |
      wrTxQueueenable => exact Proceeds.rawWrite h rfl
  all_goals exact Proceeds.rawRead h rfl

end Sys2Proof.Machine
end

section
/-! The invariant of every run: kept by every step (O53), and enough for every step to be answered (O54); the records
that a step only adds to (O55). -/

namespace Sys2Proof.Machine

theorem idle_notMem_statesOf (i : Instr) : .idle ∉ statesOf i := by cases i <;> simp [statesOf]

theorem faulted_notMem_statesOf (i : Instr) : .faulted ∉ statesOf i := by cases i <;> simp [statesOf]

theorem refused_notMem_statesOf (i : Instr) : .refused ∉ statesOf i := by cases i <;> simp [statesOf]

/-- Where the framer finds an operation, its position fits when it is between calls or at a ready state of it. -/
theorem controlOk_iff_of_fetch {s : State} {i : Instr} (h : s.fetch = .op i) :
    s.controlOk = true ↔ s.fsm = .idle ∨ (s.fsm ∈ statesOf i ∧ workReady i s.work s.fsm = true) := by
  obtain ⟨hf, hr, -⟩ := fetch_op h
  unfold State.controlOk
  split
  next hi => simp [hi]
  next hf' => exact absurd hf' hf
  next hr' => exact absurd hr' hr
  next hi _ _ => simp [h, show s.fsm ≠ .idle from hi]

theorem controlOk_of_halted {s : State} (h : s.fsm = .idle ∨ s.fsm = .faulted ∨ s.fsm = .refused) :
    s.controlOk = true := by
  rcases h with h | h | h <;> simp [State.controlOk, h]

theorem fetch_ne_lost {s : State} (h : s.controlOk = true) : s.fetch ≠ .lost := by
  intro hl
  obtain ⟨hi, hf, hr⟩ := fetch_lost hl
  unfold State.controlOk at h
  split at h <;> simp_all

namespace State.Inv

variable {s t : State}

/-- Where draws come from is outside the invariant. -/
theorem withEnv (h : s.Inv) (env : Env) : ({ s with env := env } : State).Inv := { h with }

theorem nextTurn (h : s.Inv) : s.nextTurn.2.Inv := h.withEnv _

theorem canStep {i : Instr} (h : s.Inv) (hi : s.fetch = .op i) : CanStep i s where
  position := (controlOk_iff_of_fetch hi).1 h.control
  aligned := h.cursorAligned

theorem fault_eq_none (h : s.Inv) (hf : s.fsm ≠ .faulted) : s.fault = none :=
  not_not.1 fun hn => hf (h.faultMark.2 hn)

theorem refused_eq_none (h : s.Inv) (hr : s.fsm ≠ .refused) : s.refused = none :=
  not_not.1 fun hn => hr (h.refuseMark.2 hn)

/-- A refusal by the framer, which was not halted. -/
theorem refuse (h : s.Inv) (hf : s.fsm ≠ .faulted) (r : RefuseReason) : (s.refuse r).Inv :=
  { h with
    configured := .inr rfl
    faultMark := by simp [h.fault_eq_none hf]
    refuseMark := by simp
    control := controlOk_of_halted (.inr (.inr rfl))
    idleWork := nofun }

/-- The frame of a framer step keeps what the invariant says of the device, the memory and the parameters. -/
theorem device_of_frame (h : s.Inv) (hlt : s.hp < s.program.length) (frame : ExecFrame s t) :
    t.mem.wf ∧ t.rxf.length ≤ t.cfg.rxDepth ∧ t.txf.length ≤ t.cfg.txDepth ∧ t.hp ≤ t.program.length ∧
      (t.loopback = true → t.rxStream = [] ∧ t.rxEndless = false) := by
  refine ⟨frame.mem h.memWf, ?rx, ?tx, ?hp, ?stream⟩
  case rx =>
    have fits := h.rxFits
    rw [frame.cfg]
    rcases frame.rx with hx | ⟨e, hx⟩
    · rw [hx]; exact fits
    · rw [hx, List.length_cons] at fits
      omega
  case tx =>
    have fits := h.txFits
    rw [frame.cfg]
    rcases frame.tx with hx | ⟨e, hne, hx⟩
    · rw [hx]; exact fits
    · rw [hx, List.length_append, List.length_singleton]
      omega
  case hp =>
    rw [frame.program]
    rcases frame.hp with hp | hp <;> omega
  case stream =>
    rw [frame.loopback, frame.stream.1, frame.stream.2]
    exact h.loopbackStream

/-- However an operation proceeds, the marks, the control position and the registers agree afterwards. -/
theorem control_of_proceeds {i : Instr} (h : s.Inv) (hi : s.fetch = .op i) (hprog : t.program = s.program)
    (proceeds : Proceeds i s t) :
    (t.fsm = .faulted ↔ t.fault ≠ none) ∧ (t.fsm = .refused ↔ t.refused ≠ none) ∧ t.controlOk = true ∧
      (t.fsm = .idle → t.work = { ret := t.work.ret }) ∧ t.work.Aligned := by
  obtain ⟨hf, hr, raw, hraw, hd⟩ := fetch_op hi
  have hfault := h.fault_eq_none hf
  have hrefused := h.refused_eq_none hr
  cases proceeds with
  | faults fsm fault refused aligned =>
    exact ⟨by simp [fsm, fault], by simp [fsm, refused, hrefused], controlOk_of_halted (.inr (.inl fsm)),
      by simp [fsm], aligned⟩
  | refuses fsm fault refused aligned =>
    exact ⟨by simp [fsm, fault, hfault], by simp [fsm, refused], controlOk_of_halted (.inr (.inr fsm)),
      by simp [fsm], aligned⟩
  | returns fsm work fault refused =>
    refine ⟨by simp [fsm, fault, hfault], by simp [fsm, refused, hrefused], controlOk_of_halted (.inl fsm),
      fun _ => work, fun c hc => ?_⟩
    rw [work] at hc
    cases hc
  | goesOn mem ready aligned hp fault refused =>
    have idle : t.fsm ≠ .idle := fun e => idle_notMem_statesOf i (e ▸ mem)
    have faulted : t.fsm ≠ .faulted := fun e => faulted_notMem_statesOf i (e ▸ mem)
    have refused' : t.fsm ≠ .refused := fun e => refused_notMem_statesOf i (e ▸ mem)
    have fetch : t.fetch = .op i := fetch_eq_op_iff.2 ⟨faulted, refused', raw, by rw [hprog, hp]; exact hraw, hd⟩
    exact ⟨by simp [faulted, fault, hfault], by simp [refused', refused, hrefused],
      (controlOk_iff_of_fetch fetch).2 (.inr ⟨mem, ready⟩), fun e => absurd e idle, aligned⟩

/-- One framer step of the operation at `hp` keeps the invariant. -/
theorem exec {i : Instr} (h : s.Inv) (hi : s.fetch = .op i) (he : exec i s = .next t) : t.Inv := by
  have frame := exec_frame he
  obtain ⟨hf, hr, raw, hraw, -⟩ := fetch_op hi
  obtain ⟨t', he', proceeds⟩ := exec_proceeds (h.canStep hi)
  obtain rfl : t' = t := by simpa [he'] using he
  obtain ⟨memWf, rxFits, txFits, hpBound, loopbackStream⟩ :=
    h.device_of_frame (List.getElem?_eq_some_iff.1 hraw).1 frame
  obtain ⟨faultMark, refuseMark, control, idleWork, cursorAligned⟩ := h.control_of_proceeds hi frame.program proceeds
  have configured : t'.cfg.wf ∨ t'.fsm = .refused := .inl (frame.cfg ▸ h.configured.resolve_right hr)
  exact { memWf, rxFits, txFits, configured, faultMark, refuseMark, control, hpBound, idleWork, cursorAligned,
          loopbackStream }

theorem framerStep (h : s.Inv) (hs : framerStep s = .next t) : t.Inv := by
  rcases framerStep_next hs with ⟨-, rfl⟩ | ⟨e, he, rfl⟩ | ⟨i, hi, he⟩
  · exact h
  · exact h.refuse (fun hf => by simp [fetch_of_halted (.inl hf)] at he) _
  · exact h.exec hi he

theorem rxLinkStep (h : s.Inv) : (rxLinkStep s).Inv := by
  rcases rxLinkStep_cases s with e | ⟨entry, stream, env, room, e, hs⟩ <;> rw [e]
  · exact h
  · refine { h with rxFits := by simpa using room, loopbackStream := fun hl => ?_ }
    obtain ⟨hempty, hend⟩ := h.loopbackStream hl
    rcases hs with hs | ⟨-, -, hs⟩
    · simp [hempty] at hs
    · simp [hend] at hs

theorem txLinkStep (h : s.Inv) : (txLinkStep s).Inv := by
  rcases txLinkStep_cases s with e | ⟨entry, rest, -, htx, he⟩
  · rw [e]; exact h
  · have txFits : rest.length ≤ s.cfg.txDepth := by
      have := h.txFits
      rw [htx, List.length_cons] at this
      omega
    rcases he with ⟨-, e⟩ | ⟨-, room, e⟩ <;> rw [e]
    · exact { h with txFits := txFits }
    · exact { h with txFits := txFits, rxFits := by simpa using room }

/-- The framer's turn is always answered: what it finds is never `lost`, and an operation is at a ready state. -/
theorem framerStep_answered (h : s.Inv) : ∃ t, Machine.framerStep s = .next t := by
  cases hs : s.fetch with
  | noStep => exact ⟨_, framerStep_noStep hs⟩
  | lost => exact absurd hs (fetch_ne_lost h.control)
  | rejected e => exact ⟨_, framerStep_rejected hs⟩
  | op i =>
    obtain ⟨t, he, -⟩ := exec_proceeds (h.canStep hs)
    exact ⟨t, (framerStep_op hs).trans he⟩

end State.Inv

/-- Settles O53: each agent's turn keeps the invariant. -/
theorem stepKeepsInvariant : Obligations.StepKeepsInvariant := by
  intro s t h hs
  rcases step_cases hs with ⟨-, hs⟩ | ⟨-, rfl⟩ | ⟨-, rfl⟩
  · exact h.nextTurn.framerStep hs
  · exact h.nextTurn.rxLinkStep
  · exact h.nextTurn.txLinkStep

/-- Settles O54: the links always answer, and the framer does under the invariant. -/
theorem stepNeverStops : Obligations.StepNeverStops := by
  intro s h
  cases ha : s.nextTurn.1 with
  | framer =>
    obtain ⟨t, ht⟩ := h.nextTurn.framerStep_answered
    exact ⟨t, (step_framer ha).trans ht⟩
  | rxLink => exact ⟨_, step_rxLink ha⟩
  | txLink => exact ⟨_, step_txLink ha⟩

/-! ### Records -/

/-- What a turn leaves for good of the records and the run's parameters (R33, R34, R48, R49). -/
structure RecordsGrow (s t : State) : Prop where
  cfg : t.cfg = s.cfg
  program : t.program = s.program
  loopback : t.loopback = s.loopback
  trace : ∃ es, t.trace = s.trace ++ es
  fault : ∀ c, s.fault = some c → t.fault = some c
  refused : ∀ r, s.refused = some r → t.refused = some r
  hp : t.hp = s.hp ∨ t.hp = s.hp + 1

namespace RecordsGrow

variable {s t : State}

theorem refl (s : State) : RecordsGrow s s := ⟨rfl, rfl, rfl, ⟨[], by simp⟩, fun _ => id, fun _ => id, .inl rfl⟩

/-- A framer that finds something to do has no mark yet, so it clears none. -/
theorem exec {i : Instr} (h : s.Inv) (hi : s.fetch = .op i) (he : exec i s = .next t) : RecordsGrow s t := by
  have frame := exec_frame he
  obtain ⟨hf, hr, -⟩ := fetch_op hi
  exact { cfg := frame.cfg, program := frame.program, loopback := frame.loopback, trace := frame.trace, hp := frame.hp
          fault := by simp [h.fault_eq_none hf]
          refused := by simp [h.refused_eq_none hr] }

theorem framerStep (h : s.Inv) (hs : framerStep s = .next t) : RecordsGrow s t := by
  rcases framerStep_next hs with ⟨-, rfl⟩ | ⟨e, he, rfl⟩ | ⟨i, hi, he⟩
  · exact refl _
  · have hr : s.fsm ≠ .refused := fun hr => by simp [fetch_of_halted (.inr hr)] at he
    exact { refl s with refused := by simp [h.refused_eq_none hr] }
  · exact exec h hi he

theorem rxLinkStep : RecordsGrow s (rxLinkStep s) := by
  rcases rxLinkStep_cases s with e | ⟨_, _, _, -, e, -⟩ <;> rw [e]
  · exact refl s
  · exact { refl s with trace := ⟨_, rfl⟩ }

theorem txLinkStep : RecordsGrow s (txLinkStep s) := by
  rcases txLinkStep_cases s with e | ⟨_, _, -, -, ⟨-, e⟩ | ⟨-, -, e⟩⟩ <;> rw [e]
  · exact refl s
  · exact { refl s with trace := ⟨_, rfl⟩ }
  · exact { refl s with trace := ⟨_, List.append_assoc ..⟩ }

end RecordsGrow

/-- Settles O55: the turn of each agent only adds to the records. -/
theorem stepRecordsOnlyGrow : Obligations.StepRecordsOnlyGrow := by
  intro s t h hs
  have grow : RecordsGrow s.nextTurn.2 t := by
    rcases step_cases hs with ⟨-, hs⟩ | ⟨-, rfl⟩ | ⟨-, rfl⟩
    · exact .framerStep h.nextTurn hs
    · exact .rxLinkStep
    · exact .txLinkStep
  obtain ⟨cfg, program, loopback, trace, fault, refused, hp⟩ := grow
  exact ⟨cfg, program, loopback, trace, fault, refused, hp⟩

end Sys2Proof.Machine
end

section
/-! The writers of the queue gate (O56): every state function but the raw `TX_QUEUEENABLE` write, `S_HOLD` and `S_REL`
leaves `QE` as it was. -/

namespace Sys2Proof.Machine

/-- Where the outcome is a next state, its queue gate is `q`. -/
def GateIs (q : BitVec 1) (o : StepOutcome) : Prop := ∀ t, o = .next t → t.qe = q

section gate

variable {q : BitVec 1} {s t : State}

@[simp] theorem gateIs_next : GateIs q (.next t) ↔ t.qe = q :=
  ⟨fun h => h t rfl, fun h _ e => by cases e; exact h⟩

@[simp] theorem gateIs_fault (f : Fault) : GateIs q (.fault f) := fun _ h => by cases h

@[simp] theorem gateIs_readWork {α : Type} (o : Option α) (f : α → StepOutcome) :
    GateIs q (readWork o f) ↔ ∀ a, o = some a → GateIs q (f a) := by
  cases o <;> simp

theorem gateIs_atEntry {entry : Fsm} (h : t.qe = q) : GateIs q (atEntry entry s t) := by
  intro t' ht
  rw [(atEntry_next ht).2, h]

theorem onBusRead_qe {r : Reg} {rest : Word → State → State} (h : ∀ v t, (rest v t).qe = t.qe) :
    (onBusRead r s rest).qe = s.qe := by
  rcases onBusRead_cases r s rest with ⟨c, -, e⟩ | ⟨v, t, hd, e⟩
  · rw [e, raise_qe]
  · obtain ⟨rxf, rfl⟩ := deviceRead_eq hd
    rw [e, h, emit_qe]

/-- A bus write moves the gate at `TX_QUEUEENABLE` alone, to the legal value written there (R148). -/
theorem onBusWrite_qe_cases {r : Reg} {v : Word} {rest : State → State} (h : ∀ t, (rest t).qe = t.qe) :
    (onBusWrite r v s rest).qe = s.qe ∨
      (r = .txQueueenable ∧ (v = 0 ∨ v = 1) ∧ (onBusWrite r v s rest).qe = v.setWidth 1) := by
  rcases onBusWrite_cases r v s rest with ⟨c, -, e⟩ | ⟨t, hd, e⟩
  · exact .inl (by rw [e, raise_qe])
  · rw [e, h, emit_qe]
    rcases deviceWrite_cases hd with ⟨-, rfl⟩ | ⟨-, rfl⟩ | ⟨-, _, _, -, -, -, rfl⟩ | ⟨hr, hv, rfl⟩
    · exact .inl rfl
    · exact .inl rfl
    · exact .inl rfl
    · exact .inr ⟨hr, hv, rfl⟩

theorem onBusWrite_qe {r : Reg} {v : Word} {rest : State → State} (hr : r ≠ .txQueueenable)
    (h : ∀ t, (rest t).qe = t.qe) : (onBusWrite r v s rest).qe = s.qe :=
  (onBusWrite_qe_cases h).resolve_right fun hw => hr hw.1

theorem withQuad_qe {upper lower : State → Except FaultCode (Word × State)} {rest : Word → Word → State → State}
    (hu : ∀ a v b, upper a = .ok (v, b) → ∃ env, b = { a with env := env })
    (hl : ∀ a v b, lower a = .ok (v, b) → ∃ env, b = { a with env := env })
    (h : ∀ hi lo t, (rest hi lo t).qe = t.qe) : (withQuad upper lower s rest).qe = s.qe := by
  rcases withQuad_cases upper lower s rest with ⟨c, e⟩ | ⟨hi, t, lo, t', e1, e2, e⟩
  · rw [e, raise_qe]
  · obtain ⟨n, rfl⟩ := hu _ _ _ e1
    obtain ⟨n', rfl⟩ := hl _ _ _ e2
    rw [e, h]

theorem rawRead_gate (r : Reg) : GateIs s.qe (rawRead r s) := gateIs_atEntry (onBusRead_qe fun _ _ => rfl)

theorem rawWrite_qe_cases {r : Reg} {v : Word} (h : rawWrite r v s = .next t) :
    t.qe = s.qe ∨ (r = .txQueueenable ∧ (v = 0 ∨ v = 1) ∧ t.qe = v.setWidth 1) := by
  rw [(atEntry_next h).2]
  exact onBusWrite_qe_cases fun _ => rfl

theorem rawWrite_gate {r : Reg} (v : Word) (hr : r ≠ .txQueueenable) : GateIs s.qe (rawWrite r v s) :=
  gateIs_atEntry (onBusWrite_qe hr fun _ => rfl)

theorem mask_gate (w : Precision) (width : Nat) : GateIs s.qe (execCallMask w width s) :=
  gateIs_atEntry (by unfold maskExec; split <;> rfl)

theorem maskEnableBits_gate (w : Precision) (high low : Nat) : GateIs s.qe (execCallMaskEnableBits w high low s) :=
  gateIs_atEntry (by unfold maskEnableExec; split <;> rfl)

theorem closeConnections_gate : GateIs s.qe (execCallCloseConnections s) := gateIs_atEntry rfl

/-! ### The receive path -/

@[simp] theorem waitInit_qe (b : Buffer) (cap : Nat) : (waitInit b cap s).qe = s.qe := by
  unfold waitInit
  split <;> rfl

@[simp] theorem waitDeadline_qe (deadline : Nat) (next : Fsm) : (waitDeadline deadline next s).qe = s.qe := by
  unfold waitDeadline
  obtain ⟨b, env, he, -⟩ := past_spec s.readCounter.2 s.readCounter.1 deadline
  simp only [he]
  cases b <;> rfl

@[simp] theorem waitReady_qe : (waitReady s).qe = s.qe := onBusRead_qe fun _ _ => rfl

@[simp] theorem waitStatus_qe : (waitStatus s).qe = s.qe := onBusRead_qe fun _ _ => rfl

@[simp] theorem waitUpper_qe : (waitUpper s).qe = s.qe := onBusRead_qe fun _ _ => rfl

@[simp] theorem waitLower_qe : (waitLower s).qe = s.qe := onBusRead_qe fun _ _ => rfl

@[simp] theorem waitAppend_qe (b : Buffer) (cursor : Nat) (st up lo : Word) :
    (waitAppend b cursor st up lo s).qe = s.qe := by
  unfold waitAppend
  dsimp only
  split
  · rfl
  · split <;> rfl

@[simp] theorem waitOverflow_qe (cap cursor : Nat) : (waitOverflow cap cursor s).qe = s.qe := by
  unfold waitOverflow
  split <;> rfl

@[simp] theorem waitEop_qe (cursor : Nat) (st : Word) : (waitEop cursor st s).qe = s.qe := by
  unfold waitEop
  split <;> rfl

theorem waitForTlp_gate (b : Buffer) (cap deadline : Nat) : GateIs s.qe (execCallWaitForTlp b cap deadline s) := by
  unfold execCallWaitForTlp
  split <;> simp

@[simp] theorem drainReady_qe : (drainReady s).qe = s.qe :=
  onBusRead_qe fun v t => by split <;> rfl

@[simp] theorem drainStatus_qe : (drainStatus s).qe = s.qe := onBusRead_qe fun _ _ => rfl

@[simp] theorem drainUpper_qe : (drainUpper s).qe = s.qe := onBusRead_qe fun _ _ => rfl

@[simp] theorem drainLower_qe : (drainLower s).qe = s.qe := onBusRead_qe fun _ _ => rfl

@[simp] theorem drainSpin_qe (k : Nat) : (drainSpin k s).qe = s.qe := by
  unfold drainSpin
  split <;> rfl

theorem drain_gate : GateIs s.qe (execCallDrainPcieCore s) := by
  unfold execCallDrainPcieCore
  split <;> simp

/-! ### The transmit path -/

@[simp] theorem quadStatus_qe (qs qe : BitVec 1) : (quadStatus qs qe s).qe = s.qe :=
  onBusWrite_qe nofun fun _ => rfl

@[simp] theorem quadUpper_qe (qu : Word) : (quadUpper qu s).qe = s.qe := onBusWrite_qe nofun fun _ => rfl

@[simp] theorem quadLower_qe (ql : Word) (kont : Fsm) : (quadLower ql kont s).qe = s.qe :=
  onBusWrite_qe nofun fun _ => rfl

@[simp] theorem sendSeed_qe (header : Buffer) (headerLen : Nat) (data : Option Buffer) (dataLen alignment : Nat) :
    (sendSeed header headerLen data dataLen alignment s).qe = s.qe := by
  unfold sendSeed
  split
  · rfl
  · exact withQuad_qe (fun _ _ _ => srcDW_ok) (fun _ _ _ => srcDW_ok) fun _ _ _ => rfl

@[simp] theorem sendMerged_qe (header : Buffer) (headerLen : Nat) (data : Buffer) (dataLen : Nat) :
    (sendMerged header headerLen data dataLen s).qe = s.qe :=
  withQuad_qe (fun _ _ _ => srcDW_ok) (fun _ _ _ => srcDW_ok) fun _ _ _ => rfl

@[simp] theorem sendGeneric_qe (header : Buffer) (headerLen dataLen : Nat) :
    (sendGeneric header headerLen dataLen s).qe = s.qe :=
  withQuad_qe (fun _ _ _ => srcDW_ok) (fun _ _ _ => srcDW_ok) fun _ _ _ => rfl

@[simp] theorem sendData_qe (data : Buffer) (dataLen bi : Nat) (loop : Fsm) :
    (sendData data dataLen bi loop s).qe = s.qe := by
  unfold sendData
  split
  · exact withQuad_qe (fun _ _ _ => srcDW_ok) (fun _ _ _ => srcDW_ok) fun _ _ _ => rfl
  · rfl

@[simp] theorem sendBranch_qe (headerLen alignment : Nat) : (sendBranch headerLen alignment s).qe = s.qe := rfl

theorem sendHold_qe : (sendHold s).qe = s.qe ∨ (sendHold s).qe = 0 :=
  (onBusWrite_qe_cases (rest := fun t => t.goto .sBr) fun _ => rfl).imp_right fun ⟨_, _, hq⟩ => hq

theorem sendRelease_qe : (sendRelease s).qe = s.qe ∨ (sendRelease s).qe = 1 :=
  (onBusWrite_qe_cases (rest := fun t => t.finish codeSendTlp .success) fun _ => rfl).imp_right fun ⟨_, _, hq⟩ => hq

/-- `send_tlp` moves the gate at `S_HOLD` and `S_REL` alone (R227, R233). -/
theorem sendTlp_gate {header : Buffer} {headerLen : Nat} {data : Option Buffer} {dataLen alignment : Nat}
    (hh : s.fsm ≠ .sHold) (hr : s.fsm ≠ .sRel) :
    GateIs s.qe (execCallSendTlp header headerLen data dataLen alignment s) := by
  unfold execCallSendTlp
  split
  case h_6 hf => exact absurd hf hh
  case h_12 hf => exact absurd hf hr
  all_goals simp

@[simp] theorem unalignedInit_qe (tlp : Buffer) (tlpLen : Nat) : (unalignedInit tlp tlpLen s).qe = s.qe := by
  unfold unalignedInit
  split <;> rfl

@[simp] theorem unalignedLoop_qe (tlp : Buffer) (tlpLen q n : Nat) : (unalignedLoop tlp tlpLen q n s).qe = s.qe := by
  unfold unalignedLoop
  split
  · exact withQuad_qe (fun _ _ _ => srcDW_ok) (fun _ _ _ => unalignedUpper_ok) fun _ _ _ => rfl
  · rfl

@[simp] theorem unalignedHook_qe : (unalignedHook s).qe = s.qe := rfl

/-- `send_tlp_unaligned` never moves the gate (R237). -/
theorem sendTlpUnaligned_gate (tlp : Buffer) (tlpLen : Nat) : GateIs s.qe (execCallSendTlpUnaligned tlp tlpLen s) := by
  unfold execCallSendTlpUnaligned
  split <;> simp

end gate

/-- Settles O56: the write of `TX_QUEUEENABLE` is reached by the raw write, the hold and the release alone. -/
theorem queueGateWriters : Obligations.QueueGateWriters := by
  intro i s t h
  cases i
  case wrTxQueueenable v =>
    exact (rawWrite_qe_cases h).imp_right fun ⟨_, hv, hq⟩ => .inl ⟨v, rfl, hv, hq⟩
  case callSendTlp header headerLen data dataLen alignment =>
    by_cases hh : s.fsm = .sHold
    · obtain rfl : sendHold s = t := by simpa [exec, execCallSendTlp, hh] using h
      exact sendHold_qe.imp_right fun hq => .inr ⟨_, _, _, _, _, rfl, .inl ⟨hh, hq⟩⟩
    · by_cases hr : s.fsm = .sRel
      · obtain rfl : sendRelease s = t := by simpa [exec, execCallSendTlp, hr] using h
        exact sendRelease_qe.imp_right fun hq => .inr ⟨_, _, _, _, _, rfl, .inr ⟨hr, hq⟩⟩
      · exact .inl (sendTlp_gate hh hr t h)
  case callMask w width => exact .inl (mask_gate w width t h)
  case callMaskEnableBits w high low => exact .inl (maskEnableBits_gate w high low t h)
  case callWaitForTlp b cap deadline => exact .inl (waitForTlp_gate b cap deadline t h)
  case callDrainPcieCore => exact .inl (drain_gate t h)
  case callSendTlpUnaligned tlp tlpLen => exact .inl (sendTlpUnaligned_gate tlp tlpLen t h)
  case callCloseConnections => exact .inl (closeConnections_gate t h)
  case wrRxReady v | wrRxStatus v | wrRxUpper32 v | wrRxLower32deq v | wrTxStatus v | wrTxUpper32 v |
      wrTxLower32send v => exact .inl (rawWrite_gate v (by simp) t h)
  all_goals exact .inl (rawRead_gate _ t h)

end Sys2Proof.Machine
end

section
/-! The operand forms byte by byte (R72, R73, R75): a word and its bytes, the buffer accesses in and out of bounds, and
the bytes of a source double-word; the statements O9, O10, O11 and O12 that they settle. -/

namespace Sys2Proof.Machine

/-! ### A word and its bytes -/

/-- A word of four bytes, bit by bit: byte `k` holds bits `8k` to `8k+7` (R72). -/
theorem getLsbD_wordOfBytes (b0 b1 b2 b3 : Byte) (j : Nat) :
    (wordOfBytes b0 b1 b2 b3).getLsbD j =
      if j < 8 then b0.getLsbD j else if j < 16 then b1.getLsbD (j - 8)
      else if j < 24 then b2.getLsbD (j - 16) else b3.getLsbD (j - 24) := by
  rw [wordOfBytes, BitVec.getLsbD_append, BitVec.getLsbD_append, BitVec.getLsbD_append]
  grind

@[simp] theorem wordOfBytes_byteOf (v : Word) :
    wordOfBytes (byteOf v 0) (byteOf v 1) (byteOf v 2) (byteOf v 3) = v := by
  apply BitVec.eq_of_getLsbD_eq
  intro j hj
  rw [getLsbD_wordOfBytes]
  simp only [byteOf, BitVec.getLsbD_extractLsb']
  split_ifs <;> grind

theorem byteOf_wordOfBytes (b0 b1 b2 b3 : Byte) {i : Nat} (hi : i < 4) :
    byteOf (wordOfBytes b0 b1 b2 b3) i = [b0, b1, b2, b3][i] := by
  apply BitVec.eq_of_getLsbD_eq
  intro j hj
  rw [byteOf, BitVec.getLsbD_extractLsb', getLsbD_wordOfBytes]
  interval_cases i <;> simp [hj] <;> grind

@[simp] theorem hi32_quadOf (upper lower : Word) : hi32 (quadOf upper lower) = upper :=
  BitVec.extractLsb'_append_eq_left

@[simp] theorem lo32_quadOf (upper lower : Word) : lo32 (quadOf upper lower) = lower :=
  BitVec.extractLsb'_append_eq_right

/-! ### Buffer accesses in and out of bounds -/

section accesses

variable {b : Buffer} {o : Nat} {v : Word} {m : Memory}

theorem load32_of_le (h : o + 4 ≤ b.extent) :
    load32 b o m = .ok (wordOfBytes (m.read (bufAddr b o)) (m.read (bufAddr b (o + 1)))
      (m.read (bufAddr b (o + 2))) (m.read (bufAddr b (o + 3)))) :=
  if_neg (Nat.not_lt.2 h)

theorem load32_of_lt (h : b.extent < o + 4) : load32 b o m = .error (.bufOob b o) := if_pos h

theorem store32_of_le (h : o + 4 ≤ b.extent) :
    store32 b o v m = .ok (m.writeBytes (bufAddr b o) [byteOf v 0, byteOf v 1, byteOf v 2, byteOf v 3]) :=
  if_neg (Nat.not_lt.2 h)

theorem store32_of_lt (h : b.extent < o + 4) : store32 b o v m = .error (.bufOob b o) := if_pos h

theorem load64_of_lt (h : b.extent < o + 8) : load64 b o m = .error (.bufOob b o) := if_pos h

/-- A 64-bit load is two 32-bit loads, the upper half from `o + 4` (R72, R73). -/
theorem load64_of_loads {up lo : Word} (h : o + 8 ≤ b.extent) (hup : load32 b (o + 4) m = .ok up)
    (hlo : load32 b o m = .ok lo) : load64 b o m = .ok (quadOf up lo) := by
  simp [load64, Nat.not_lt.2 h, hup, hlo]

/-- The bytes a store writes stand little-endian from the buffer's address up (R72). -/
theorem read_store32_inside {m' : Memory} (hm : m.wf) (h : store32 b o v m = .ok m') {i : Nat} (hi : i < 4) :
    m'.read (bufAddr b (o + i)) = byteOf v i := by
  rw [(store32_ok h).2, Memory.read_writeBytes hm, if_pos (by simp only [bufAddr]; omega)]
  have offset : bufAddr b (o + i) - bufAddr b o = i := by simp only [bufAddr]; omega
  rw [offset]
  interval_cases i <;> rfl

/-- A store leaves every byte outside its four as it was (R72). -/
theorem read_store32_outside {m' : Memory} (hm : m.wf) (h : store32 b o v m = .ok m') {a : Nat}
    (ha : a < bufAddr b o ∨ bufAddr b o + 4 ≤ a) : m'.read a = m.read a := by
  rw [(store32_ok h).2, Memory.read_writeBytes hm]
  split
  · rw [List.getElem?_eq_none (by simp only [List.length_cons, List.length_nil]; omega), Option.getD_none]
  · rfl

/-- What a store wrote, a load at the same offset gives back (R72, R73). -/
theorem load32_store32 {m' : Memory} (hm : m.wf) (h : store32 b o v m = .ok m') : load32 b o m' = .ok v := by
  have byte : ∀ i < 4, m'.read (bufAddr b (o + i)) = byteOf v i := fun _ => read_store32_inside hm h
  rw [load32_of_le (store32_ok h).1, show m'.read (bufAddr b o) = byteOf v 0 from byte 0 (by omega),
    byte 1 (by omega), byte 2 (by omega), byte 3 (by omega), wordOfBytes_byteOf]

end accesses

/-- Settles O9: the four byte writes of a store, read back one by one and as a word. -/
theorem storeThenLoadLittleEndian : Obligations.StoreThenLoadLittleEndian := by
  intro b o v m hm ho
  have stored := store32_of_le (v := v) (m := m) ho
  exact ⟨_, stored, store32_wf hm stored, load32_store32 hm stored,
    fun i hi => by rw [Nat.add_assoc]; exact read_store32_inside hm stored hi,
    fun a ha => read_store32_outside hm stored ha⟩

/-- Settles O10: every access checks its last byte against the extent, and a quadword is its two double-words. -/
theorem bufferAccessBounds : Obligations.BufferAccessBounds := by
  intro b o v m
  refine ⟨fun h => ⟨store32_of_lt h, load32_of_lt h⟩, load64_of_lt, fun h => ?_⟩
  have up := load32_of_le (m := m) (show o + 4 + 4 ≤ b.extent by omega)
  have lo := load32_of_le (m := m) (show o + 4 ≤ b.extent by omega)
  exact ⟨_, load64_of_loads h up lo, up.trans (congrArg _ (hi32_quadOf _ _).symm),
    lo.trans (congrArg _ (lo32_quadOf _ _).symm)⟩

/-! ### Source bytes and double-words -/

section source

variable {b : Buffer} {len o : Nat} {s : State}

theorem srcByte_owned (hl : o < len) (he : o < b.extent) :
    srcByte b len o s = .ok (s.mem.read (bufAddr b o), s) := by
  simp [srcByte, hl, he]

theorem srcByte_oob (hl : o < len) (he : b.extent ≤ o) : srcByte b len o s = .error (.bufOob b o) := by
  simp [srcByte, hl, Nat.not_lt.2 he]

theorem srcByte_drawn (hl : len ≤ o) : srcByte b len o s = .ok s.drawByte := by
  simp [srcByte, Nat.not_lt.2 hl]

/-- The byte is one that the source can give at offset `o`: the buffer's below the stated length (R75). -/
def SrcByteIs (m : Memory) (b : Buffer) (len o : Nat) (v : Byte) : Prop := o < len → v = m.read (bufAddr b o)

/-- A source byte that need not be refused is given, and only where draws come from changes (R75). -/
theorem srcByte_answers (h : o < len → o < b.extent) :
    ∃ v env, srcByte b len o s = .ok (v, { s with env := env }) ∧ SrcByteIs s.mem b len o v := by
  by_cases hl : o < len
  · exact ⟨_, s.env, srcByte_owned hl (h hl), fun _ => rfl⟩
  · exact ⟨_, _, srcByte_drawn (Nat.le_of_not_lt hl), fun h => absurd h hl⟩

/-- Every byte that the source can give is given under some listed draws, whatever draws are to be left after it. -/
theorem srcByte_reaches {v : Byte} (h : o < len → o < b.extent) (hv : SrcByteIs s.mem b len o v) (rest : List Byte) :
    ∃ bytes, ∀ env : Env, env.bytes = bytes → ∃ env' : Env, env'.bytes = rest ∧
      srcByte b len o { s with env := env } = .ok (v, { s with env := env' }) := by
  by_cases hl : o < len
  · obtain rfl := hv hl
    exact ⟨rest, fun env he => ⟨env, he, srcByte_owned hl (h hl)⟩⟩
  · refine ⟨v :: rest, fun env he => ⟨{ env with bytes := rest, draws := env.draws + 1 }, rfl, ?_⟩⟩
    rw [srcByte_drawn (Nat.le_of_not_lt hl)]
    simp [State.drawByte, he]

/-- A double-word whose four bytes are given is the word of them, the lowest the least significant (R75). -/
theorem srcDW_of_bytes {s1 s2 s3 s4 : State} {v0 v1 v2 v3 : Byte} (h0 : srcByte b len o s = .ok (v0, s1))
    (h1 : srcByte b len (o + 1) s1 = .ok (v1, s2)) (h2 : srcByte b len (o + 2) s2 = .ok (v2, s3))
    (h3 : srcByte b len (o + 3) s3 = .ok (v3, s4)) :
    srcDW b len o s = .ok (wordOfBytes v0 v1 v2 v3, s4) := by
  simp [srcDW, bind, Except.bind, pure, Except.pure, h0, h1, h2, h3]

/-- A word agrees with the buffer exactly when each of its bytes is one that the source can give. -/
theorem srcMatches_iff {m : Memory} {w : Word} :
    srcMatches m b len o w ↔ ∀ i < 4, SrcByteIs m b len (o + i) (byteOf w i) := by
  simp only [srcMatches, SrcByteIs, bufAddr, Nat.add_assoc]

theorem srcDW_answers (h : srcOwned b len o) :
    ∃ v env, srcDW b len o s = .ok (v, { s with env := env }) ∧ srcMatches s.mem b len o v := by
  obtain ⟨v0, e0, h0, m0⟩ := srcByte_answers (s := s) (h 0 (by omega))
  obtain ⟨v1, e1, h1, m1⟩ := srcByte_answers (s := { s with env := e0 }) (h 1 (by omega))
  obtain ⟨v2, e2, h2, m2⟩ := srcByte_answers (s := { s with env := e1 }) (h 2 (by omega))
  obtain ⟨v3, e3, h3, m3⟩ := srcByte_answers (s := { s with env := e2 }) (h 3 (by omega))
  refine ⟨_, e3, srcDW_of_bytes h0 h1 h2 h3, srcMatches_iff.2 fun i hi => ?_⟩
  rw [byteOf_wordOfBytes _ _ _ _ hi]
  interval_cases i
  · exact m0
  · exact m1
  · exact m2
  · exact m3

/-- Owned bytes below the first one that is not change nothing, so the double-word faults there (R75). -/
theorem srcDW_oob {i : Nat} (hi : i < 4) (hl : o + i < len) (he : b.extent ≤ o + i)
    (hj : ∀ j, j < i → o + j < b.extent) : srcDW b len o s = .error (.bufOob b (o + i)) := by
  have below : ∀ j < i, srcByte b len (o + j) s = .ok (s.mem.read (bufAddr b (o + j)), s) :=
    fun j h => srcByte_owned (by omega) (hj j h)
  have stop : srcByte b len (o + i) s = .error (.bufOob b (o + i)) := srcByte_oob hl he
  interval_cases i
  · rw [Nat.add_zero] at stop ⊢
    simp [srcDW, bind, Except.bind, stop]
  all_goals
    have lowest := below 0 (by omega)
    rw [Nat.add_zero] at lowest
    simp [srcDW, bind, Except.bind, lowest, below, stop]

/-- The draws are listed from the last byte back, each list what the next byte needs after this one. -/
theorem srcDW_reaches {w : Word} (h : srcOwned b len o) (hw : srcMatches s.mem b len o w) :
    ∃ env t, srcDW b len o { s with env := env } = .ok (w, t) := by
  have reaches := fun i hi => srcByte_reaches (s := s) (h i hi) (srcMatches_iff.1 hw i hi)
  obtain ⟨l3, h3⟩ := reaches 3 (by omega) []
  obtain ⟨l2, h2⟩ := reaches 2 (by omega) l3
  obtain ⟨l1, h1⟩ := reaches 1 (by omega) l2
  obtain ⟨l0, h0⟩ := reaches 0 (by omega) l1
  obtain ⟨e1, b1, h0⟩ := h0 { bytes := l0 } rfl
  obtain ⟨e2, b2, h1⟩ := h1 e1 b1
  obtain ⟨e3, b3, h2⟩ := h2 e2 b2
  obtain ⟨e4, -, h3⟩ := h3 e3 b3
  exact ⟨_, _, wordOfBytes_byteOf w ▸ srcDW_of_bytes h0 h1 h2 h3⟩

end source

/-- Settles O11: the four source bytes in turn, each the buffer's, drawn, or the first refused. -/
theorem sourceDoubleWordBytes : Obligations.SourceDoubleWordBytes :=
  fun _ _ _ _ => ⟨srcDW_answers, fun _ => srcDW_oob⟩

/-- Settles O12: the bytes of the word at or past the stated length, listed as the coming draws. -/
theorem drawnBytesUnconstrained : Obligations.DrawnBytesUnconstrained := fun _ _ _ _ _ => srcDW_reaches

end Sys2Proof.Machine
end

section
/-! What one turn can do to the two FIFOs (R82), and the statement O57 that it settles. -/

namespace Sys2Proof.Machine

/-- Both FIFOs keep order and change by one entry at most: a head removed, TXF's only under `QE = 1`, or an entry put
at the tail (R82, R151). -/
structure FifosOrdered (s t : State) : Prop where
  rx : t.rxf = s.rxf ∨ (∃ e, s.rxf = e :: t.rxf) ∨ ∃ e, t.rxf = s.rxf ++ [e]
  tx : t.txf = s.txf ∨ (s.qe = 1 ∧ ∃ e, s.txf = e :: t.txf) ∨ ∃ e, t.txf = s.txf ++ [e]

namespace FifosOrdered

variable {s t : State}

theorem refl (s : State) : FifosOrdered s s := ⟨.inl rfl, .inl rfl⟩

/-- The framer takes entries from RXF and puts them into TXF alone (R71, R147). -/
theorem ofFrame (h : ExecFrame s t) : FifosOrdered s t where
  rx := h.rx.imp_right .inl
  tx := h.tx.imp_right fun ⟨e, _, he⟩ => .inr ⟨e, he⟩

theorem framerStep (h : framerStep s = .next t) : FifosOrdered s t := by
  rcases framerStep_next h with ⟨-, rfl⟩ | ⟨_, -, rfl⟩ | ⟨i, -, he⟩
  · exact refl _
  · exact ofFrame ((ExecFrame.refl s).refuse _)
  · exact ofFrame (exec_frame he)

theorem rxLinkStep : FifosOrdered s (rxLinkStep s) := by
  rcases rxLinkStep_cases s with e | ⟨_, _, _, -, e, -⟩ <;> rw [e]
  · exact refl s
  · exact ⟨.inr (.inr ⟨_, rfl⟩), .inl rfl⟩

theorem txLinkStep : FifosOrdered s (txLinkStep s) := by
  rcases txLinkStep_cases s with e | ⟨_, _, hq, ht, ⟨-, e⟩ | ⟨-, -, e⟩⟩ <;> rw [e]
  · exact refl s
  · exact ⟨.inl rfl, .inr (.inl ⟨hq, _, ht⟩)⟩
  · exact ⟨.inr (.inr ⟨_, rfl⟩), .inr (.inl ⟨hq, _, ht⟩)⟩

end FifosOrdered

/-- Settles O57: the turn of each agent, taking which changes neither FIFO nor the gate. -/
theorem fifosKeepOrder : Obligations.FifosKeepOrder := by
  intro s t hs
  have ordered : FifosOrdered s.nextTurn.2 t := by
    rcases step_cases hs with ⟨-, hs⟩ | ⟨-, rfl⟩ | ⟨-, rfl⟩
    · exact .framerStep hs
    · exact .rxLinkStep
    · exact .txLinkStep
  exact ⟨ordered.rx, ordered.tx⟩

end Sys2Proof.Machine
end

section
/-! The entry and the end of `send_tlp_unaligned` (R237, R238, R240), and the statement O42 that they settle. -/

namespace Sys2Proof.Machine

section unaligned

variable {s : State} {tlp : Buffer} {tlpLen : Nat}

theorem exec_unaligned_entry (h : s.fsm = .idle ∨ s.fsm = .uInit) :
    exec (.callSendTlpUnaligned tlp tlpLen) s = .next (unalignedInit tlp tlpLen s) := by
  rcases h with h | h <;> simp [exec, execCallSendTlpUnaligned, h]

theorem exec_unaligned_hook (h : s.fsm = .uHook) :
    exec (.callSendTlpUnaligned tlp tlpLen) s = .next (unalignedHook s) := by
  simp [exec, execCallSendTlpUnaligned, h]

/-- The reason that refuses the call: the length's range first, then the base (R237, R76). -/
theorem firstFailing_unalignedChecks :
    firstFailing (unalignedChecks tlp tlpLen) =
      if tlpLen < 2 ^ 31 - 7 then if tlp.base % 8 = 0 then none else some .bufAlign else some .lenRange := by
  simp [unalignedChecks, firstFailing, baseAligned]

theorem unalignedInit_lenRange (h : 2 ^ 31 - 7 ≤ tlpLen) : unalignedInit tlp tlpLen s = s.refuse .lenRange := by
  simp only [unalignedInit, firstFailing_unalignedChecks, if_neg (Nat.not_lt.2 h)]

theorem unalignedInit_bufAlign (h : tlpLen < 2 ^ 31 - 7) (hb : tlp.base % 8 ≠ 0) :
    unalignedInit tlp tlpLen s = s.refuse .bufAlign := by
  simp only [unalignedInit, firstFailing_unalignedChecks, if_pos h, if_neg hb]

theorem unalignedInit_accepted (h : tlpLen < 2 ^ 31 - 7) (hb : tlp.base % 8 = 0) :
    unalignedInit tlp tlpLen s =
      { s with work := { n := some ((tlpLen + 7) / 8), q := some 0 }, fsm := .uLoop } := by
  simp only [unalignedInit, firstFailing_unalignedChecks, if_pos h, if_pos hb]

theorem unalignedHook_eq : unalignedHook s = s.returned 0x15 .success [.hookTs] := rfl

end unaligned

/-- Settles O42: the two checks in their order, and the hook's own step. -/
theorem unalignedEntryAndHook : Obligations.UnalignedEntryAndHook := by
  intro s tlp tlpLen
  refine ⟨fun hf => ?_, fun hf => by rw [exec_unaligned_hook hf, unalignedHook_eq]⟩
  rw [exec_unaligned_entry hf]
  split
  next hr => rw [unalignedInit_lenRange hr]; rfl
  next hr =>
    have inRange := Nat.lt_of_not_le hr
    split
    next hb => rw [unalignedInit_bufAlign inRange hb]; rfl
    next hb => rw [unalignedInit_accepted inRange (not_not.1 hb)]

end Sys2Proof.Machine
end

section
/-! The decoder and the encoder, code by code (R100 to R104, R111), and the statements O1, O2, O3, O4 and O49 that
they settle. -/

namespace Sys2Proof

/-! ### The fields of a code -/

@[simp] theorem number_regOfNumber (n : BitVec 3) : BitVec.ofNat 3 (Reg.ofNumber n).number = n := by
  revert n; decide

/-- The class of a code, its upper four bits, is `0000` exactly below `0x10` (R101). -/
theorem codeClass_eq_zero_iff (op : BitVec 8) : op.extractLsb' 4 4 = 0#4 ↔ op.toNat < 0x10 := by
  have hlt := op.isLt
  rw [← BitVec.toNat_inj, BitVec.extractLsb'_toNat, Nat.shiftRight_eq_div_pow, BitVec.toNat_ofNat]
  omega

@[simp] theorem busCode_class (d : BitVec 1) (r : Reg) : (busCode d r).extractLsb' 4 4 = 0#4 := by
  rw [busCode, BitVec.extractLsb'_append_eq_of_le (by decide), BitVec.extractLsb'_append_eq_left]

@[simp] theorem busCode_direction (d : BitVec 1) (r : Reg) : (busCode d r).extractLsb' 3 1 = d := by
  rw [busCode, BitVec.extractLsb'_append_eq_of_le le_rfl, BitVec.extractLsb'_append_eq_right]

@[simp] theorem busCode_register (d : BitVec 1) (r : Reg) :
    (busCode d r).extractLsb' 0 3 = BitVec.ofNat 3 r.number :=
  BitVec.extractLsb'_append_eq_right

/-- Below `0x10` a code is the bus code of its direction and register fields (R101). -/
theorem exists_eq_busCode {op : BitVec 8} (h : op.toNat < 0x10) : ∃ d r, op = busCode d r := by
  refine ⟨op.extractLsb' 3 1, Reg.ofNumber (op.extractLsb' 0 3), ?_⟩
  rw [busCode, number_regOfNumber, ← (codeClass_eq_zero_iff op).2 h,
    BitVec.extractLsb'_append_extractLsb'_eq_extractLsb' (start₁ := 3) (len₁ := 1) rfl,
    BitVec.extractLsb'_append_extractLsb'_eq_extractLsb' (start₁ := 0) (len₁ := 3) rfl, BitVec.extractLsb'_eq_self]

/-- The read codes are those below `0x08` (R101, R104). -/
theorem busCode_lt_iff (d : BitVec 1) (r : Reg) : (busCode d r).toNat < 0x08 ↔ d = 0 := by
  revert d; cases r <;> decide

/-- Every 40-bit word is a code and a value (R101). -/
theorem exists_eq_append (w : BitVec 40) : ∃ (op : BitVec 8) (v : Word), w = op ++ v :=
  ⟨w.extractLsb' 32 8, w.extractLsb' 0 32, (BitVec.extractLsb'_append_extractLsb' (w := 8) (len := 32)).symm⟩

/-! ### What each code decodes to -/

theorem badCode_of_lt {op : BitVec 8} (h : op.toNat < 0x17) : badCode op = .wrongFormat := if_pos h

theorem badCode_of_selector {op : BitVec 8} (h : 0x17 ≤ op.toNat) (h' : op.toNat < 0x20) :
    badCode op = .reservedSelector := by
  rw [badCode, if_neg (Nat.not_lt.2 h), if_pos h']

theorem badCode_of_class {op : BitVec 8} (h : 0x20 ≤ op.toNat) : badCode op = .reservedClass := by
  rw [badCode, if_neg (by omega), if_neg (Nat.not_lt.2 h)]

theorem decodeWord_of_le {op : BitVec 8} (v : Word) (h : 0x10 ≤ op.toNat) :
    decodeWord (op ++ v) = .error (badCode op) := by
  have class_ne := mt (codeClass_eq_zero_iff op).1 (Nat.not_lt.2 h)
  simp only [decodeWord, code_of_word, if_pos class_ne]

theorem decodeWord_busWrite (r : Reg) (v : Word) : decodeWord (busCode 1 r ++ v) = .ok (.busWrite v r) := by
  simp [decodeWord]

theorem decodeWord_busRead (r : Reg) : decodeWord (busCode 0 r ++ 0#32) = .ok (.busRead r) := by
  simp [decodeWord]

theorem decodeWord_busRead_value (r : Reg) {v : Word} (hv : v ≠ 0) :
    decodeWord (busCode 0 r ++ v) = .error .readWithValue := by
  simpa [decodeWord] using hv

/-- A code with a record that is no call code opens no operation (R104; log 23). -/
theorem decodeCall_of_not_call {op : BitVec 8} (args : ArgRecord) (h : op.toNat < 0x10 ∨ 0x17 ≤ op.toNat) :
    decodeCall op args = .error (badCode op) := by
  unfold decodeCall
  split
  case h_8 => rw [if_neg (by omega)]
  all_goals omega

/-- Every call code decodes with the record of its procedure, all values zero (R102). -/
theorem decodeCall_zeroRecord {op : BitVec 8} (h : 0x10 ≤ op.toNat) (h' : op.toNat < 0x17) :
    ∃ i, decodeCall op (zeroRecord op) = .ok i := by
  unfold decodeCall zeroRecord
  interval_cases op.toNat <;> exact ⟨_, rfl⟩

/-! ### Encoding what is decoded -/

theorem encode_busRead (r : Reg) : encode (.busRead r) = encodeBus 0 r 0 := by cases r <;> rfl

theorem encode_busWrite (v : Word) (r : Reg) : encode (.busWrite v r) = encodeBus 1 r v := by cases r <;> rfl

theorem wf_busRead (r : Reg) : (Instr.busRead r).wf = true := by cases r <;> rfl

theorem wf_busWrite (v : Word) (r : Reg) : (Instr.busWrite v r).wf = true := by cases r <;> rfl

theorem encode_of_decodeWord {w : BitVec 40} {i : Instr} (h : decodeWord w = .ok i) :
    encode i = .word w ∧ i.wf = true := by
  obtain ⟨op, v, rfl⟩ := exists_eq_append w
  by_cases hop : op.toNat < 0x10
  · obtain ⟨d, r, rfl⟩ := exists_eq_busCode hop
    obtain rfl | rfl := BitVec.eq_zero_or_eq_one d
    · by_cases hv : v = 0
      · subst hv
        cases (decodeWord_busRead r).symm.trans h
        exact ⟨encode_busRead r, wf_busRead r⟩
      · cases (decodeWord_busRead_value r hv).symm.trans h
    · cases (decodeWord_busWrite r v).symm.trans h
      exact ⟨encode_busWrite v r, wf_busWrite v r⟩
  · cases (decodeWord_of_le v (Nat.le_of_not_lt hop)).symm.trans h

theorem encode_of_decodeCall {op : BitVec 8} {args : ArgRecord} {i : Instr} (h : decodeCall op args = .ok i) :
    encode i = .call op args ∧ i.wf = true := by
  have code : ∀ {n : Nat}, op.toNat = n → BitVec.ofNat 8 n = op := fun hn => by
    rw [← hn, BitVec.ofNat_toNat, BitVec.setWidth_eq]
  unfold decodeCall at h
  split at h
  case h_5 hop =>
    split at h
    next hwf => cases h; exact ⟨congrArg (RawOp.call · _) (code hop), hwf⟩
    · cases h
  case h_8 => split at h <;> cases h
  all_goals
    cases h
    exact ⟨congrArg (RawOp.call · _) (code ‹_›), rfl⟩

/-- Settles O2: the two formats, each code in turn. -/
theorem encodeInvertsDecode : Obligations.EncodeInvertsDecode := by
  intro r i h
  cases r with
  | word w => exact encode_of_decodeWord h
  | call op args => exact encode_of_decodeCall h

theorem decode_encode_busRead (r : Reg) : decode (encode (.busRead r)) = .ok (.busRead r) := by
  rw [encode_busRead]; exact decodeWord_busRead r

theorem decode_encode_busWrite (v : Word) (r : Reg) : decode (encode (.busWrite v r)) = .ok (.busWrite v r) := by
  rw [encode_busWrite]; exact decodeWord_busWrite r v

/-- Settles O1: the sixteen bus operations by their direction and register, the calls by their records. -/
theorem decodeInvertsEncode : Obligations.DecodeInvertsEncode := by
  intro i hwf
  cases i with
  | rdRxReady => exact decode_encode_busRead .rxReady
  | rdRxStatus => exact decode_encode_busRead .rxStatus
  | rdRxUpper32 => exact decode_encode_busRead .rxUpper32
  | rdRxLower32deq => exact decode_encode_busRead .rxLower32deq
  | rdTxStatus => exact decode_encode_busRead .txStatus
  | rdTxUpper32 => exact decode_encode_busRead .txUpper32
  | rdTxLower32send => exact decode_encode_busRead .txLower32send
  | rdTxQueueenable => exact decode_encode_busRead .txQueueenable
  | wrRxReady v => exact decode_encode_busWrite v .rxReady
  | wrRxStatus v => exact decode_encode_busWrite v .rxStatus
  | wrRxUpper32 v => exact decode_encode_busWrite v .rxUpper32
  | wrRxLower32deq v => exact decode_encode_busWrite v .rxLower32deq
  | wrTxStatus v => exact decode_encode_busWrite v .txStatus
  | wrTxUpper32 v => exact decode_encode_busWrite v .txUpper32
  | wrTxLower32send v => exact decode_encode_busWrite v .txLower32send
  | wrTxQueueenable v => exact decode_encode_busWrite v .txQueueenable
  | callSendTlp header headerLen data dataLen alignment => exact if_pos hwf
  | callMask | callMaskEnableBits | callWaitForTlp | callDrainPcieCore | callSendTlpUnaligned
  | callCloseConnections => rfl

/-- Settles O4: bus codes by direction and value, call codes by their zero records, and the codes that open no
operation of the format by their range. -/
theorem decodeVerdicts : Obligations.DecodeVerdicts := by
  refine ⟨fun op v => ?_, fun op args => ?_⟩
  · by_cases hbus : op.toNat < 0x10
    · obtain ⟨d, r, rfl⟩ := exists_eq_busCode hbus
      obtain rfl | rfl := BitVec.eq_zero_or_eq_one d
      · rw [if_pos ((busCode_lt_iff 0#1 r).2 rfl)]
        split
        next hv => subst hv; exact ⟨_, decodeWord_busRead r⟩
        next hv => exact decodeWord_busRead_value r hv
      · rw [if_neg (mt (busCode_lt_iff 1#1 r).1 (by decide)), if_pos hbus]
        exact ⟨_, decodeWord_busWrite r v⟩
    · have bad : decode (.word (op ++ v)) = .error (badCode op) := decodeWord_of_le v (Nat.le_of_not_lt hbus)
      rw [if_neg (by omega), if_neg hbus, bad]
      split_ifs with hcall hselector
      · rw [badCode_of_lt hcall]
      · rw [badCode_of_selector (Nat.le_of_not_lt hcall) hselector]
      · rw [badCode_of_class (Nat.le_of_not_lt hselector)]
  · have bad : op.toNat < 0x10 ∨ 0x17 ≤ op.toNat → decode (.call op args) = .error (badCode op) :=
      decodeCall_of_not_call args
    split_ifs with hbus hcall hselector
    · rw [bad (.inl hbus), badCode_of_lt (by omega)]
    · obtain ⟨i, hi⟩ := decodeCall_zeroRecord (Nat.le_of_not_lt hbus) hcall
      exact ⟨_, i, hi, congrArg RawOp.code (encode_of_decodeCall hi).1⟩
    · rw [bad (.inr (Nat.le_of_not_lt hcall)), badCode_of_selector (Nat.le_of_not_lt hcall) hselector]
    · rw [bad (.inr (Nat.le_of_not_lt hcall)), badCode_of_class (Nat.le_of_not_lt hselector)]

/-- Settles O3: each word evaluated. -/
theorem tableWordsDecode : Obligations.TableWordsDecode := by
  unfold Obligations.TableWordsDecode
  decide

end Sys2Proof

namespace Sys2Proof.Machine

theorem fetch_of_decode_error {s : State} {raw : RawOp} {e : DecodeError} (hi : s.fsm = .idle)
    (hraw : s.program[s.hp]? = some raw) (hd : decode raw = .error e) : s.fetch = .rejected e := by
  simp [State.fetch, hi, hraw, hd]

/-- Settles O49: the framer fetches a rejected operation, whatever the decoder's error. -/
theorem unknownOperationRefused : Obligations.UnknownOperationRefused :=
  fun _ _ _ hi hraw hd => framerStep_rejected (fetch_of_decode_error hi hraw hd)

end Sys2Proof.Machine
end

section
/-! The status word bit by bit (R105 to R107), and the statement O5 that it settles. -/

namespace Sys2Proof.Machine

/-! ### Masks and placed bits -/

/-- The bits of `mask_enable_bits` (R171), at any word size. -/
theorem getLsbD_maskEnableValue {W high low i : Nat} (hlow : low ≤ high + 1) (hi : i < W) :
    (maskEnableValue W high low).getLsbD i = decide (low ≤ i ∧ i ≤ high) := by
  have shifted : (2 ^ (high + 1) - 1) - (2 ^ low - 1) = (2 ^ (high + 1 - low) - 1) * 2 ^ low := by
    rw [Nat.sub_mul, ← pow_add, Nat.sub_add_cancel hlow]
    have := Nat.one_le_two_pow (n := low)
    omega
  rw [maskEnableValue, shifted, BitVec.getLsbD_ofNat, Nat.testBit_mul_two_pow, Nat.testBit_two_pow_sub_one]
  simp only [hi]
  grind

/-- A one-bit value placed at position `p` of a word (R106). -/
theorem getLsbD_placedBit (b : BitVec 1) (p : Nat) {i : Nat} (hi : i < 32) :
    (b.setWidth 32 <<< p).getLsbD i = (decide (i = p) && decide (b = 1)) := by
  obtain rfl | rfl : b = 0#1 ∨ b = 1#1 := BitVec.eq_zero_or_eq_one b
  · simp
  · simp [hi]
    grind

/-! ### The fields of a status word -/

section layout

variable {p : Params} {sop eop : BitVec 1} {be : Nat}

theorem getLsbD_pack {i : Nat} (hi : i < 32) :
    (pack p sop eop be).getLsbD i =
      ((decide (i = p.sopPos) && decide (sop = 1)) || (decide (i = p.eopPos) && decide (eop = 1)) ||
        (decide (p.beLo ≤ i) && be.testBit (i - p.beLo))) := by
  simp only [pack, BitVec.getLsbD_or, getLsbD_placedBit _ _ hi, BitVec.getLsbD_shiftLeft, BitVec.getLsbD_ofNat]
  grind

/-- A value of the byteenable field has no bit past the field's width. -/
theorem testBit_eq_false_of_field (hbe : be < 2 ^ p.beW) {i : Nat} (hi : p.beW ≤ i) : be.testBit i = false :=
  Nat.testBit_lt_two_pow (hbe.trans_le (Nat.pow_le_pow_right two_pos hi))

/-- In a well-formed layout (R9) no two fields of a packed word share a bit, and every other bit is 0 (R106). -/
theorem getLsbD_pack_of_layoutWf (h : p.layoutWf) (hbe : be < 2 ^ p.beW) {i : Nat} (hi : i < 32) :
    (pack p sop eop be).getLsbD i =
      if i = p.sopPos then decide (sop = 1) else if i = p.eopPos then decide (eop = 1)
      else if p.beLo ≤ i ∧ i < p.beLo + p.beW then be.testBit (i - p.beLo) else false := by
  obtain ⟨distinct, -, sopOutside, eopOutside⟩ := h
  have outside : p.beLo ≤ i → ¬ i < p.beLo + p.beW → be.testBit (i - p.beLo) = false :=
    fun _ _ => testBit_eq_false_of_field hbe (by omega)
  rw [getLsbD_pack hi]
  grind

/-- The bits of an unpacked byteenable (R107), a field of width 0 included. -/
theorem getLsbD_beOf (st : Word) (i : Nat) :
    (beOf p st).getLsbD i = (decide (i < p.beW) && st.getLsbD (p.beLo + i)) := by
  unfold beOf
  split
  next hw => simp [hw]
  next hw =>
    rw [BitVec.getLsbD_ushiftRight, BitVec.getLsbD_and]
    by_cases hi : p.beLo + i < 32
    · rw [getLsbD_maskEnableValue (by omega) hi]
      grind
    · rw [BitVec.getLsbD_of_ge st _ (Nat.le_of_not_lt hi), Bool.false_and, Bool.and_false]

/-- Unpacking the byteenable of a packed word gives it back (R106, R107). -/
theorem toNat_beOf_pack (h : p.layoutWf) (hbe : be < 2 ^ p.beW) : (beOf p (pack p sop eop be)).toNat = be := by
  apply Nat.eq_of_testBit_eq
  intro i
  rw [BitVec.testBit_toNat, getLsbD_beOf]
  by_cases hi : i < p.beW
  · have inWord : p.beLo + i < 32 := by
      obtain ⟨-, fits, -⟩ := h
      omega
    rw [getLsbD_pack_of_layoutWf h hbe inWord]
    grind
  · rw [testBit_eq_false_of_field hbe (Nat.le_of_not_lt hi), decide_eq_false hi, Bool.false_and]

end layout

/-- Settles O5: the packed word bit by bit, and each field read back from those bits. -/
theorem packAndUnpackStatusWord : Obligations.PackAndUnpackStatusWord := by
  intro p sop eop be ⟨ranges, layout⟩ hbe
  obtain ⟨sopLt, eopLt, -⟩ := ranges
  have distinct : p.eopPos ≠ p.sopPos := layout.1.symm
  refine ⟨fun i => getLsbD_pack_of_layoutWf layout hbe, ?_, ?_, toNat_beOf_pack layout hbe⟩
  · rw [sopOf, bitAt, getLsbD_pack_of_layoutWf layout hbe sopLt, if_pos rfl]
  · rw [eopOf, bitAt, getLsbD_pack_of_layoutWf layout hbe eopLt, if_neg distinct, if_pos rfl]

end Sys2Proof.Machine
end

section
/-! Two runs of `wait_for_tlp` that differ in a received status word alone (R107, D6), and the statement O29 that they
settle. -/

namespace Sys2Proof.Machine

/-- The state with another received status word. -/
def State.withStatus (st : Word) (s : State) : State := { s with work := { s.work with s := some st } }

/-- The states after the same step of two runs: equal, or one with `st` and the other with `st'` in its place. -/
def StatusApart (st st' : Word) (t t' : State) : Prop :=
  t' = t ∨ (t.work.s = some st ∧ t' = t.withStatus st')

/-- Where one run's step is answered, the other's is, and only the received status word differs. -/
def AnswersApart (st st' : Word) (o o' : StepOutcome) : Prop :=
  ∀ t, o = .next t → ∃ t', o' = .next t' ∧ StatusApart st st' t t'

section apart

variable {st st' : Word} {s : State}

theorem AnswersApart.next {t t' : State} (h : StatusApart st st' t t') : AnswersApart st st' (.next t) (.next t') := by
  rintro _ ⟨⟩
  exact ⟨t', rfl, h⟩

theorem AnswersApart.readWork {α : Type} {o : Option α} {f f' : α → StepOutcome}
    (h : ∀ a, AnswersApart st st' (f a) (f' a)) : AnswersApart st st' (readWork o f) (readWork o f') := by
  cases o with
  | none => rintro _ ⟨⟩
  | some a => exact h a

/-- The device does not see the working registers (R31, R71). -/
theorem deviceRead_withStatus (r : Reg) (s : State) :
    deviceRead r (s.withStatus st') = (deviceRead r s).map (Prod.map id (State.withStatus st')) := by
  obtain ⟨cfg, loopback, program, hp, fsm, work, rxf, _⟩ := s
  cases r <;> cases rxf <;> rfl

theorem StatusApart.onBusRead {r : Reg} {rest : Word → State → State} (hs : s.work.s = some st)
    (h : ∀ v t, t.work.s = some st → StatusApart st st' (rest v t) (rest v (t.withStatus st'))) :
    StatusApart st st' (onBusRead r s rest) (onBusRead r (s.withStatus st') rest) := by
  unfold Machine.onBusRead
  rw [deviceRead_withStatus]
  cases hd : deviceRead r s with
  | error c => exact .inr ⟨hs, rfl⟩
  | ok a =>
    obtain ⟨v, t⟩ := a
    obtain ⟨rxf, rfl⟩ := deviceRead_eq hd
    exact h v _ hs

theorem waitInit_withStatus (b : Buffer) (cap : Nat) (hs : s.work.s = some st) :
    StatusApart st st' (waitInit b cap s) (waitInit b cap (s.withStatus st')) := by
  unfold waitInit
  split
  · exact .inr ⟨hs, rfl⟩
  · exact .inl rfl

/-- Neither the counter nor a draw sees the working registers (R192, R296). -/
theorem readCounter_withStatus (s : State) :
    (s.withStatus st').readCounter = (s.readCounter.1, s.readCounter.2.withStatus st') := rfl

theorem past_withStatus (c deadline : Nat) (s : State) :
    (s.withStatus st').past c deadline = ((s.past c deadline).1, (s.past c deadline).2.withStatus st') := by
  unfold State.past
  split
  · rfl
  · split <;> rfl

theorem waitDeadline_withStatus (deadline : Nat) (f : Fsm) (hs : s.work.s = some st) :
    StatusApart st st' (waitDeadline deadline f s) (waitDeadline deadline f (s.withStatus st')) := by
  obtain ⟨b, env, hpast, -⟩ := past_spec s.readCounter.2 s.readCounter.1 deadline
  simp only [waitDeadline, readCounter_withStatus, past_withStatus, hpast]
  cases b
  · exact .inr ⟨hs, rfl⟩
  · exact .inl rfl

theorem waitAppend_withStatus (b : Buffer) (cursor : Nat) (up lo : Word) (hs : s.work.s = some st)
    (hsop : sopOf s.cfg st' = sopOf s.cfg st) :
    StatusApart st st' (waitAppend b cursor st up lo s) (waitAppend b cursor st' up lo (s.withStatus st')) := by
  unfold waitAppend
  simp only [State.withStatus, hsop]
  split
  · exact .inr ⟨hs, rfl⟩
  · split <;> exact .inr ⟨hs, rfl⟩

theorem waitOverflow_withStatus (cap cursor : Nat) (hs : s.work.s = some st) :
    StatusApart st st' (waitOverflow cap cursor s) (waitOverflow cap cursor (s.withStatus st')) := by
  unfold waitOverflow
  split
  · exact .inl rfl
  · exact .inr ⟨hs, rfl⟩

theorem waitEop_withStatus (cursor : Nat) (hs : s.work.s = some st) (heop : eopOf s.cfg st' = eopOf s.cfg st) :
    StatusApart st st' (waitEop cursor st s) (waitEop cursor st' (s.withStatus st')) := by
  unfold waitEop
  simp only [State.withStatus, heop]
  split
  · exact .inl rfl
  · exact .inr ⟨hs, rfl⟩

theorem waitForTlp_withStatus (b : Buffer) (cap deadline : Nat) (hs : s.work.s = some st)
    (hsop : sopOf s.cfg st' = sopOf s.cfg st) (heop : eopOf s.cfg st' = eopOf s.cfg st) :
    AnswersApart st st' (execCallWaitForTlp b cap deadline s)
      (execCallWaitForTlp b cap deadline (s.withStatus st')) := by
  have hs' : (s.withStatus st').work.s = some st' := rfl
  have hfsm : (s.withStatus st').fsm = s.fsm := rfl
  unfold execCallWaitForTlp
  rw [hfsm, hs', hs]
  split
  next => exact .next (waitInit_withStatus b cap hs)
  next => exact .next (waitInit_withStatus b cap hs)
  next => exact .next (waitDeadline_withStatus deadline .wRdy hs)
  next => exact .next (.onBusRead hs fun _ _ ht => .inr ⟨ht, rfl⟩)
  next => exact .next (.onBusRead hs fun _ _ _ => .inl rfl)
  next => exact .next (.onBusRead hs fun _ _ ht => .inr ⟨ht, rfl⟩)
  next => exact .next (.onBusRead hs fun _ _ ht => .inr ⟨ht, rfl⟩)
  next =>
    exact .readWork fun c => .readWork fun up => .readWork fun lo => .next (waitAppend_withStatus b c up lo hs hsop)
  next => exact .readWork fun c => .next (waitOverflow_withStatus cap c hs)
  next => exact .next (waitDeadline_withStatus deadline .wEop hs)
  next => exact .readWork fun c => .next (waitEop_withStatus c hs heop)
  next => rintro _ ⟨⟩

end apart

/-- Settles O29: the states that read the status word read its framing bits alone, and no other state reads it. -/
theorem receivedByteenableIgnored : Obligations.ReceivedByteenableIgnored := by
  intro s b cap deadline st st' hs hsop heop t ht
  obtain ⟨t', ht', rfl | ⟨hst, rfl⟩⟩ := waitForTlp_withStatus b cap deadline hs hsop heop t ht
  · exact ⟨t', ht', rfl, .inl rfl⟩
  · exact ⟨_, ht', rfl, .inr ⟨hst, rfl⟩⟩

end Sys2Proof.Machine
end

section
/-! The turns of the two links case by case (R150 to R152), and the statements O46, O47 and O60 that they settle. -/

namespace Sys2Proof.Machine

section links

variable {s t : State} {e : Entry} {rest : List Entry}

/-! ### The receive link -/

theorem rxLinkStep_of_full (h : s.cfg.rxDepth ≤ s.rxf.length) : rxLinkStep s = s := if_neg (Nat.not_lt.2 h)

theorem rxLinkStep_of_cons (hroom : s.rxf.length < s.cfg.rxDepth) (hs : s.rxStream = e :: rest) :
    rxLinkStep s = rxDeliver e { s with rxStream := rest } := by
  simp [rxLinkStep, hroom, hs]

theorem rxLinkStep_of_exhausted (hs : s.rxStream = []) (he : s.rxEndless = false) : rxLinkStep s = s := by
  simp [rxLinkStep, hs, he]

theorem rxLinkStep_of_endless (hroom : s.rxf.length < s.cfg.rxDepth) (hs : s.rxStream = [])
    (he : s.rxEndless = true) : rxLinkStep s = rxDeliver s.drawEntry.1 s.drawEntry.2 := by
  simp [rxLinkStep, hroom, hs, he]

/-! ### The transmit link -/

theorem txLinkStep_of_hold (hq : s.qe = 0) : txLinkStep s = s := by simp [txLinkStep, hq]

theorem txLinkStep_of_empty (ht : s.txf = []) : txLinkStep s = s := by simp [txLinkStep, ht]

theorem txLinkStep_of_cons (hq : s.qe = 1) (ht : s.txf = e :: rest) (hl : s.loopback = false) :
    txLinkStep s = { s with txf := rest, trace := s.trace ++ [.linkTx e] } := by
  simp [txLinkStep, hq, ht, hl, State.emit]

theorem txLinkStep_of_loopback (hq : s.qe = 1) (ht : s.txf = e :: rest) (hl : s.loopback = true)
    (hroom : s.rxf.length < s.cfg.rxDepth) :
    txLinkStep s = { s with txf := rest, rxf := s.rxf ++ [e], trace := s.trace ++ [.linkTx e, .linkRx e] } := by
  simp [txLinkStep, hq, ht, hl, hroom, rxDeliver, State.emit]

theorem txLinkStep_of_loopback_full (hq : s.qe = 1) (ht : s.txf = e :: rest) (hl : s.loopback = true)
    (hfull : ¬ s.rxf.length < s.cfg.rxDepth) : txLinkStep s = s := by
  simp [txLinkStep, hq, ht, hl, hfull]

end links

/-- Settles O46: the four cases of the receive link's turn; an endless stream's entry is drawn. -/
theorem receiveLinkDelivers : Obligations.ReceiveLinkDelivers := by
  intro s
  exact ⟨fun e rest hs hroom => rxLinkStep_of_cons hroom hs, rxLinkStep_of_full, rxLinkStep_of_exhausted,
    fun hs he hroom => ⟨_, _, rxLinkStep_of_endless hroom hs he⟩⟩

/-- Settles O47: the hold and the empty FIFO first, then the run's kind and the room in RXF. -/
theorem transmitLinkRemoves : Obligations.TransmitLinkRemoves := by
  intro s
  refine ⟨fun h => h.elim txLinkStep_of_hold txLinkStep_of_empty, fun e rest hq ht => ?_⟩
  split_ifs with hl hroom
  · exact txLinkStep_of_cons hq ht hl
  · exact txLinkStep_of_loopback hq ht (Bool.eq_true_of_not_eq_false hl) hroom
  · exact txLinkStep_of_loopback_full hq ht (Bool.eq_true_of_not_eq_false hl) hroom

/-! ### The head of TXF over a run -/

/-- An entry stands at the head of TXF in a run that is no loopback run. -/
def HeadWaits (e : Entry) (s : State) : Prop := s.loopback = false ∧ ∃ rest, s.txf = e :: rest

/-- From `s` to `t` the entry leaves the head of TXF, and its `LinkTx` is the one event (R151). -/
def HeadLeaves (e : Entry) (s t : State) : Prop := s.txf = e :: t.txf ∧ t.trace = s.trace ++ [.linkTx e]

section head

variable {s t : State} {e : Entry}

/-- Under a released gate the transmit link's turn takes the head. -/
theorem HeadWaits.leaves (h : HeadWaits e s) (hq : s.qe = 1) (hturn : s.nextTurn.1 = .txLink)
    (hs : step s = .next t) : HeadLeaves e s t := by
  obtain ⟨hl, rest, ht⟩ := h
  rw [step_txLink hturn, txLinkStep_of_cons (s := s.nextTurn.2) hq ht hl] at hs
  cases hs
  exact ⟨ht, rfl⟩

/-- The framer puts entries behind the head (R147). -/
theorem HeadWaits.framerStep (h : HeadWaits e s) (hs : framerStep s = .next t) : HeadWaits e t := by
  rcases framerStep_next hs with ⟨-, rfl⟩ | ⟨_, -, rfl⟩ | ⟨i, -, he⟩
  · exact h
  · exact h
  · have frame := exec_frame he
    obtain ⟨hl, rest, ht⟩ := h
    refine ⟨frame.loopback.trans hl, ?_⟩
    rcases frame.tx with hsame | ⟨e', -, happend⟩
    · exact ⟨rest, hsame.trans ht⟩
    · exact ⟨rest ++ [e'], by rw [happend, ht, List.cons_append]⟩

/-- The receive link leaves TXF as it is. -/
theorem HeadWaits.rxLinkStep (h : HeadWaits e s) : HeadWaits e (rxLinkStep s) := by
  rcases rxLinkStep_cases s with hs | ⟨_, _, _, -, hs, -⟩ <;> rw [hs] <;> exact h

/-- Under a released gate a step takes the head or leaves it waiting. -/
theorem HeadWaits.step (h : HeadWaits e s) (hq : s.qe = 1) (hs : step s = .next t) :
    HeadLeaves e s t ∨ HeadWaits e t := by
  rcases step_cases hs with ⟨-, hframer⟩ | ⟨-, rfl⟩ | ⟨hturn, -⟩
  · exact .inr (HeadWaits.framerStep (s := s.nextTurn.2) h hframer)
  · exact .inr (HeadWaits.rxLinkStep (s := s.nextTurn.2) h)
  · exact .inl (h.leaves hq hturn hs)

end head

/-- Under a released gate the head leaves at some step of a run, or waits at every step. -/
theorem IsRun.headLeaves_or_headWaits {r : Nat → State} {draws : Nat → Env} {e : Entry} (hrun : IsRun r draws)
    (hq : ∀ k, (r k).qe = 1) (h0 : HeadWaits e (r 0)) (j : Nat) :
    (∃ k, HeadLeaves e (r k) (r (k + 1))) ∨ HeadWaits e (r j) := by
  induction j with
  | zero => exact .inr h0
  | succ j ih =>
    rcases ih with hleft | hwaits
    · exact .inl hleft
    · exact (HeadWaits.step (s := { r j with env := draws j }) hwaits (hq j) (hrun j)).imp_left fun h => ⟨j, h⟩

/-- Settles O60: the head waits until a turn of the transmit link, which the fairness premise gives, and that turn takes
it. -/
theorem transmitLinkDrainsUnderFairTurns : Obligations.TransmitLinkDrainsUnderFairTurns := by
  intro r draws e rest hrun hfair hl hq ht
  obtain ⟨j, -, hturn⟩ := hfair 0
  rcases hrun.headLeaves_or_headWaits hq ⟨hl, rest, ht⟩ j with hleft | hwaits
  · exact hleft
  · exact ⟨j, HeadWaits.leaves (s := { r j with env := draws j }) hwaits (hq j) hturn (hrun j)⟩

end Sys2Proof.Machine
end

section
/-! A raw bus operation is one framer step: what its register access answers, returned or taken as a fault (R140). The
statements O13 to O19 that this settles. -/

namespace Sys2Proof.Machine

/-! ### The device's answers -/

section device

variable {s : State} {r : Reg} {e : Entry} {rest : List Entry} {v : Word}

theorem readyWord_nil : readyWord [] = 0 := rfl

theorem readyWord_of_ne_nil {rxf : List Entry} (h : rxf ≠ []) : readyWord rxf = 1 := by
  simp [readyWord, flagWord, h]

theorem deviceRead_rxReady : deviceRead .rxReady s = .ok (readyWord s.rxf, s) := rfl

theorem deviceRead_rxStatus (h : s.rxf = e :: rest) : deviceRead .rxStatus s = .ok (e.st, s) := by
  simp [deviceRead, h]

theorem deviceRead_rxUpper32 (h : s.rxf = e :: rest) : deviceRead .rxUpper32 s = .ok (e.up, s) := by
  simp [deviceRead, h]

theorem deviceRead_rxLower32deq (h : s.rxf = e :: rest) :
    deviceRead .rxLower32deq s = .ok (e.lo, { s with rxf := rest }) := by
  simp [deviceRead, h]

/-- On an empty RXF every read of the head faults (R142 to R144). -/
theorem deviceRead_of_empty (h : s.rxf = []) (hr : r = .rxStatus ∨ r = .rxUpper32 ∨ r = .rxLower32deq) :
    deviceRead r s = .error (.rxEmpty r) := by
  rcases hr with rfl | rfl | rfl <;> simp [deviceRead, h]

/-- The transmit registers are the numbers from 4 up (R36); none is read (R149). -/
theorem deviceRead_of_transmit (hr : 4 ≤ r.number) : deviceRead r s = .error (.illegalAccess (busCode 0 r)) := by
  cases r <;> simp [Reg.number, deviceRead] at hr ⊢

/-- The receive registers are the numbers below 4 (R36); none is written (R149). -/
theorem deviceWrite_of_receive (hr : r.number < 4) : deviceWrite r v s = .error (.illegalAccess (busCode 1 r)) := by
  cases r <;> simp [Reg.number, deviceWrite] at hr ⊢

theorem devicePush_of_unwritten (h : s.txs = none ∨ s.txu = none) :
    devicePush v s = .error (.txLatch s.txs.isNone s.txu.isNone) := by
  unfold devicePush
  split <;> simp_all

theorem devicePush_of_full {st up : Word} (hst : s.txs = some st) (hup : s.txu = some up)
    (hfull : s.txf.length = s.cfg.txDepth) : devicePush v s = .error .txFull := by
  simp [devicePush, hst, hup, hfull]

theorem devicePush_of_room {st up : Word} (hst : s.txs = some st) (hup : s.txu = some up)
    (hroom : s.txf.length ≠ s.cfg.txDepth) :
    devicePush v s = .ok { s with txf := s.txf ++ [⟨st, up, v⟩], txs := none, txu := none } := by
  simp [devicePush, hst, hup, hroom]

theorem deviceWrite_txQueueenable (h : v = 0 ∨ v = 1) :
    deviceWrite .txQueueenable v s = .ok { s with qe := v.setWidth 1 } := if_pos h

theorem deviceWrite_txQueueenable_illegal (h : ¬ (v = 0 ∨ v = 1)) :
    deviceWrite .txQueueenable v s = .error (.qeValue v) := if_neg h

end device

/-! ### One framer step of a raw bus operation -/

section rawBus

variable {s t : State} {r : Reg} {v : Word} {c : FaultCode}

theorem atEntry_of {entry : Fsm} (h : s.fsm = .idle ∨ s.fsm = entry) : atEntry entry s t = .next t := if_pos h

theorem exec_busRead (r : Reg) (s : State) : exec (.busRead r) s = rawRead r s := by cases r <;> rfl

theorem exec_busWrite (v : Word) (r : Reg) (s : State) : exec (.busWrite v r) s = rawWrite r v s := by
  cases r <;> rfl

variable (he : s.fsm = .idle ∨ s.fsm = .bExec)
include he

theorem exec_busRead_ok (hd : deviceRead r s = .ok (v, t)) :
    exec (.busRead r) s = .next (t.returned (busCode 0 r) (.word v) [.busRd r v]) := by
  rw [exec_busRead, rawRead, atEntry_of he, onBusRead, hd]
  rfl

theorem exec_busRead_error (hd : deviceRead r s = .error c) : exec (.busRead r) s = .next (s.faultedBy c) := by
  rw [exec_busRead, rawRead, atEntry_of he, onBusRead, hd]
  rfl

theorem exec_busWrite_ok (hd : deviceWrite r v s = .ok t) :
    exec (.busWrite v r) s = .next (t.returned (busCode 1 r) (.word 0) [.busWr r v]) := by
  rw [exec_busWrite, rawWrite, atEntry_of he, onBusWrite, hd]
  rfl

theorem exec_busWrite_error (hd : deviceWrite r v s = .error c) :
    exec (.busWrite v r) s = .next (s.faultedBy c) := by
  rw [exec_busWrite, rawWrite, atEntry_of he, onBusWrite, hd]
  rfl

end rawBus

/-- Settles O13: the word of RX_READY for an empty and for an occupied RXF. -/
theorem rdRxReadyReadsOccupancy : Obligations.RdRxReadyReadsOccupancy := by
  intro s he
  have hread := exec_busRead_ok he deviceRead_rxReady
  refine ⟨fun h => ?_, fun h => ?_⟩
  · rw [h, readyWord_nil] at hread
    exact hread
  · rw [readyWord_of_ne_nil h] at hread
    exact hread

/-- Settles O14: a head's words, or the fault of an empty RXF. -/
theorem rdRxStatusUpperReadHead : Obligations.RdRxStatusUpperReadHead := by
  intro s he
  refine ⟨fun e rest h => ⟨?_, ?_⟩, fun h => ⟨?_, ?_⟩⟩
  · exact exec_busRead_ok he (deviceRead_rxStatus h)
  · exact exec_busRead_ok he (deviceRead_rxUpper32 h)
  · exact exec_busRead_error he (deviceRead_of_empty h (.inl rfl))
  · exact exec_busRead_error he (deviceRead_of_empty h (.inr (.inl rfl)))

/-- Settles O15: the head's lower word and the rest of RXF, or the fault of an empty RXF. -/
theorem rdRxLower32deqDequeues : Obligations.RdRxLower32deqDequeues := by
  intro s he
  refine ⟨fun e rest h => ?_, fun h => ?_⟩
  · exact exec_busRead_ok he (deviceRead_rxLower32deq h)
  · exact exec_busRead_error he (deviceRead_of_empty h (.inr (.inr rfl)))

/-- Settles O16: the device takes a write of either latch in every state. -/
theorem wrTxStatusUpperLatch : Obligations.WrTxStatusUpperLatch := by
  intro s v he
  exact ⟨exec_busWrite_ok (r := .txStatus) he rfl, exec_busWrite_ok (r := .txUpper32) he rfl⟩

/-- Settles O17: the three outcomes of the push. -/
theorem wrTxLower32sendPushes : Obligations.WrTxLower32sendPushes := by
  intro s v he
  refine ⟨fun h => ?_, fun st up hst hup => ⟨fun hfull => ?_, fun hroom => ?_⟩⟩
  · exact ⟨_, _, exec_busWrite_error (r := .txLower32send) he (devicePush_of_unwritten h)⟩
  · exact exec_busWrite_error (r := .txLower32send) he (devicePush_of_full hst hup hfull)
  · exact exec_busWrite_ok (r := .txLower32send) he (devicePush_of_room hst hup hroom)

/-- Settles O18: the two legal values, and every other one. -/
theorem wrTxQueueenableSetsGate : Obligations.WrTxQueueenableSetsGate := by
  intro s v he
  split_ifs with h0 h1
  · subst h0
    exact exec_busWrite_ok he (deviceWrite_txQueueenable (.inl rfl))
  · subst h1
    exact exec_busWrite_ok he (deviceWrite_txQueueenable (.inr rfl))
  · exact exec_busWrite_error he (deviceWrite_txQueueenable_illegal (not_or.2 ⟨h0, h1⟩))

/-- Settles O19: no transmit register is read and no receive register written, and the code is the operation's own. -/
theorem wrongDirectionFaults : Obligations.WrongDirectionFaults := by
  intro s v he
  have read (r : Reg) (hr : 4 ≤ r.number) := exec_busRead_error he (deviceRead_of_transmit hr)
  have write (r : Reg) (hr : r.number < 4) := exec_busWrite_error (v := v) he (deviceWrite_of_receive hr)
  exact ⟨read .txStatus (by decide), read .txUpper32 (by decide), read .txLower32send (by decide),
    read .txQueueenable (by decide), write .rxReady (by decide), write .rxStatus (by decide),
    write .rxUpper32 (by decide), write .rxLower32deq (by decide)⟩

end Sys2Proof.Machine
end

section
/-! The mask utilities (41_bitmask.md): the value and the bits of each mask, one framer step of each call, and the
statements O8, O6 and O7 that they settle. -/

namespace Sys2Proof.Machine

/-! ### The values and the bits -/

theorem toNat_maskValue {W width : Nat} (h : width ≤ W) : (maskValue W width).toNat = 2 ^ width - 1 := by
  have hpow := Nat.pow_le_pow_right two_pos h
  have hpos := Nat.two_pow_pos width
  rw [maskValue, BitVec.toNat_ofNat, Nat.mod_eq_of_lt (by omega)]

theorem toNat_maskEnableValue {W high low : Nat} (h : high < W) :
    (maskEnableValue W high low).toNat = (2 ^ (high + 1) - 1) - (2 ^ low - 1) := by
  have hpow : 2 ^ (high + 1) ≤ 2 ^ W := Nat.pow_le_pow_right two_pos h
  have hpos := Nat.two_pow_pos (high + 1)
  rw [maskEnableValue, BitVec.toNat_ofNat, Nat.mod_eq_of_lt (by omega)]

/-- The bits of `mask` (R172), at any word size. -/
theorem getLsbD_maskValue {W width i : Nat} (hi : i < W) : (maskValue W width).getLsbD i = decide (i < width) := by
  rw [maskValue, BitVec.getLsbD_ofNat, Nat.testBit_two_pow_sub_one, decide_eq_true hi, Bool.true_and]

/-- The second mask as a combination of the first (R172): the bits below `high + 1` that are not below `low`. -/
theorem maskEnableValue_eq_and_not {W high low : Nat} (hlow : low ≤ high) :
    maskEnableValue W high low = maskValue W (high + 1) &&& ~~~ maskValue W low := by
  refine BitVec.eq_of_getLsbD_eq fun i hi => ?_
  rw [BitVec.getLsbD_and, BitVec.getLsbD_not, getLsbD_maskEnableValue (by omega) hi, getLsbD_maskValue hi,
    getLsbD_maskValue hi, decide_eq_true hi, Bool.true_and, ← decide_not, ← Bool.decide_and, decide_eq_decide]
  omega

/-- Settles O8: the bits of each mask, and the combination compared bit by bit. -/
theorem maskBitLaws : Obligations.MaskBitLaws :=
  ⟨fun _ _ _ _ hi => getLsbD_maskValue hi, fun _ _ _ _ hlow _ hi => getLsbD_maskEnableValue (by omega) hi,
    fun _ _ _ hlow _ => maskEnableValue_eq_and_not hlow⟩

/-! ### One framer step of each call, at either precision -/

section calls

variable {s : State} {w : Precision} {width high low : Nat}

/-- A return with no event before its own `Return`. -/
theorem finish_eq_returned_nil (op : BitVec 8) (v : Result) : s.finish op v = s.returned op v [] := by
  rw [State.finish, State.returned, List.append_nil]

theorem exec_callMask_ok (he : s.fsm = .idle ∨ s.fsm = .mExec) (h : width ≤ precisionBits w) :
    exec (.callMask w width) s =
      .next (s.returned codeMask (maskResult w fun W => maskValue W width) []) :=
  (atEntry_of he).trans (congrArg _ ((if_neg h.not_gt).trans (finish_eq_returned_nil _ _)))

theorem exec_callMask_contract (he : s.fsm = .idle ∨ s.fsm = .mExec) (h : precisionBits w < width) :
    exec (.callMask w width) s = .next (s.faultedBy (.contract w [width])) :=
  (atEntry_of he).trans (congrArg _ (if_pos h))

theorem exec_callMaskEnableBits_ok (he : s.fsm = .idle ∨ s.fsm = .mbExec) (hlow : low ≤ high)
    (hhigh : high ≤ precisionBits w - 1) :
    exec (.callMaskEnableBits w high low) s =
      .next (s.returned codeMaskEnableBits (maskResult w fun W => maskEnableValue W high low) []) :=
  (atEntry_of he).trans (congrArg _
    ((if_neg (not_or.2 ⟨hlow.not_gt, hhigh.not_gt⟩)).trans (finish_eq_returned_nil _ _)))

theorem exec_callMaskEnableBits_contract (he : s.fsm = .idle ∨ s.fsm = .mbExec)
    (h : ¬ (low ≤ high ∧ high ≤ precisionBits w - 1)) :
    exec (.callMaskEnableBits w high low) s = .next (s.faultedBy (.contract w [high, low])) :=
  (atEntry_of he).trans (congrArg _ (if_pos (by omega)))

end calls

/-- Settles O6: at each precision, the mask in the domain and the fault outside it. -/
theorem maskCallReturnsMask : Obligations.MaskCallReturnsMask := by
  intro s width he
  constructor
  · split_ifs with h
    · exact ⟨_, toNat_maskValue h, exec_callMask_ok (w := .w32) he h⟩
    · exact exec_callMask_contract (w := .w32) he (Nat.lt_of_not_le h)
  · split_ifs with h
    · exact ⟨_, toNat_maskValue h, exec_callMask_ok (w := .w64) he h⟩
    · exact exec_callMask_contract (w := .w64) he (Nat.lt_of_not_le h)

/-- Settles O7: at each precision, the mask in the domain and the fault outside it. -/
theorem maskEnableCallReturnsMask : Obligations.MaskEnableCallReturnsMask := by
  intro s high low he
  constructor
  · split_ifs with h
    · obtain ⟨hlow, hhigh⟩ := h
      exact ⟨_, toNat_maskEnableValue (by omega), exec_callMaskEnableBits_ok (w := .w32) he hlow hhigh⟩
    · exact exec_callMaskEnableBits_contract (w := .w32) he h
  · split_ifs with h
    · obtain ⟨hlow, hhigh⟩ := h
      exact ⟨_, toNat_maskEnableValue (by omega), exec_callMaskEnableBits_ok (w := .w64) he hlow hhigh⟩
    · exact exec_callMaskEnableBits_contract (w := .w64) he h

end Sys2Proof.Machine
end

section
/-! `wait_for_tlp` state by state (R181 to R192), and the statements O20, O21, O23, O24, O25, O26, O27 and O28 that they
settle. -/

namespace Sys2Proof.Machine

/-! ### A bus read in a framer state -/

section busRead

variable {s t : State} {r : Reg} {v : Word} {c : FaultCode} {rest : Word → State → State}

theorem onBusRead_ok (h : deviceRead r s = .ok (v, t)) : onBusRead r s rest = rest v (t.emit (.busRd r v)) := by
  rw [onBusRead, h]

theorem onBusRead_error (h : deviceRead r s = .error c) : onBusRead r s rest = s.raise c := by
  rw [onBusRead, h]

theorem onBusRead_rxReady_of_nil (h : s.rxf = []) :
    onBusRead .rxReady s rest = rest 0 (s.emit (.busRd .rxReady 0)) := by
  rw [onBusRead_ok deviceRead_rxReady, h, readyWord_nil]

theorem onBusRead_rxReady_of_ne_nil (h : s.rxf ≠ []) :
    onBusRead .rxReady s rest = rest 1 (s.emit (.busRd .rxReady 1)) := by
  rw [onBusRead_ok deviceRead_rxReady, readyWord_of_ne_nil h]

end busRead

/-! ### The state that the control position names -/

section wait

variable {s : State} {b : Buffer} {cap deadline cursor : Nat} {st up lo : Word} {e : Entry} {rest : List Entry}

theorem exec_wait_entry (h : s.fsm = .idle ∨ s.fsm = .wInit) :
    exec (.callWaitForTlp b cap deadline) s = .next (waitInit b cap s) := by
  rcases h with h | h <;> simp [exec, execCallWaitForTlp, h]

theorem exec_wait_deadline {next : Fsm} (h : (s.fsm = .wDl ∧ next = .wRdy) ∨ (s.fsm = .wDl2 ∧ next = .wEop)) :
    exec (.callWaitForTlp b cap deadline) s = .next (waitDeadline deadline next s) := by
  rcases h with ⟨h, rfl⟩ | ⟨h, rfl⟩ <;> simp [exec, execCallWaitForTlp, h]

theorem exec_wait_ready (h : s.fsm = .wRdy) :
    exec (.callWaitForTlp b cap deadline) s = .next (waitReady s) := by
  simp [exec, execCallWaitForTlp, h]

theorem exec_wait_status (h : s.fsm = .wSt) :
    exec (.callWaitForTlp b cap deadline) s = .next (waitStatus s) := by
  simp [exec, execCallWaitForTlp, h]

theorem exec_wait_upper (h : s.fsm = .wUp) :
    exec (.callWaitForTlp b cap deadline) s = .next (waitUpper s) := by
  simp [exec, execCallWaitForTlp, h]

theorem exec_wait_lower (h : s.fsm = .wLo) :
    exec (.callWaitForTlp b cap deadline) s = .next (waitLower s) := by
  simp [exec, execCallWaitForTlp, h]

theorem exec_wait_append (h : s.fsm = .wApp) (hc : s.work.cursor = some cursor) (hs : s.work.s = some st)
    (hu : s.work.u = some up) (hl : s.work.l = some lo) :
    exec (.callWaitForTlp b cap deadline) s = .next (waitAppend b cursor st up lo s) := by
  simp [exec, execCallWaitForTlp, h, hc, hs, hu, hl]

theorem exec_wait_overflow (h : s.fsm = .wOvf) (hc : s.work.cursor = some cursor) :
    exec (.callWaitForTlp b cap deadline) s = .next (waitOverflow cap cursor s) := by
  simp [exec, execCallWaitForTlp, h, hc]

theorem exec_wait_eop (h : s.fsm = .wEop) (hc : s.work.cursor = some cursor) (hs : s.work.s = some st) :
    exec (.callWaitForTlp b cap deadline) s = .next (waitEop cursor st s) := by
  simp [exec, execCallWaitForTlp, h, hc, hs]

/-! ### The entry -/

/-- The reason that refuses the call: the base first, then the capacity's range (R181, R76). -/
theorem firstFailing_waitChecks :
    firstFailing (waitChecks b cap) =
      if b.base % 8 = 0 then if cap < 2 ^ 32 then none else some .lenRange else some .bufAlign := by
  simp [waitChecks, firstFailing, baseAligned]

theorem waitInit_bufAlign (hb : b.base % 8 ≠ 0) : waitInit b cap s = s.refuse .bufAlign := by
  simp only [waitInit, firstFailing_waitChecks, if_neg hb]

theorem waitInit_lenRange (hb : b.base % 8 = 0) (hcap : 2 ^ 32 ≤ cap) : waitInit b cap s = s.refuse .lenRange := by
  simp only [waitInit, firstFailing_waitChecks, if_pos hb, if_neg (Nat.not_lt.2 hcap)]

theorem waitInit_accepted (hb : b.base % 8 = 0) (hcap : cap < 2 ^ 32) :
    waitInit b cap s = { s with work := { cursor := some 0 }, fsm := .wDl } := by
  simp only [waitInit, firstFailing_waitChecks, if_pos hb, if_pos hcap]

/-! ### The deadline checks -/

theorem past_of_lt {c : Nat} (h : c < deadline) : s.past c deadline = (false, s) := if_pos h

theorem past_of_gt {c : Nat} (h : deadline < c) : s.past c deadline = (true, s) := by
  rw [State.past, if_neg (Nat.not_lt.2 h.le), if_pos h]

theorem past_self : s.past deadline deadline = s.drawTie := by
  rw [State.past, if_neg (lt_irrefl _), if_neg (lt_irrefl _)]

theorem waitDeadline_eq {c : Nat} {past : Bool} {next : Fsm} {t t' : State} (hread : s.readCounter = (c, t))
    (hpast : t.past c deadline = (past, t')) :
    waitDeadline deadline next s = if past then t'.finish codeWaitForTlp .timeout else t'.goto next := by
  simp only [waitDeadline, hread, hpast]
  cases past <;> rfl

/-! ### The ready poll and the three reads of an entry -/

theorem waitReady_of_nil (h : s.rxf = []) :
    waitReady s = { s with fsm := .wDl, trace := s.trace ++ [.busRd .rxReady 0] } :=
  onBusRead_rxReady_of_nil h

theorem waitReady_of_ne_nil (h : s.rxf ≠ []) :
    waitReady s = { s with fsm := .wSt, trace := s.trace ++ [.busRd .rxReady 1] } :=
  onBusRead_rxReady_of_ne_nil h

theorem waitStatus_of_cons (h : s.rxf = e :: rest) :
    waitStatus s =
      { s with fsm := .wUp, work := { s.work with s := some e.st }, trace := s.trace ++ [.busRd .rxStatus e.st] } :=
  onBusRead_ok (deviceRead_rxStatus h)

theorem waitUpper_of_cons (h : s.rxf = e :: rest) :
    waitUpper s =
      { s with fsm := .wLo, work := { s.work with u := some e.up }, trace := s.trace ++ [.busRd .rxUpper32 e.up] } :=
  onBusRead_ok (deviceRead_rxUpper32 h)

theorem waitLower_of_cons (h : s.rxf = e :: rest) :
    waitLower s =
      { s with
        fsm := .wApp, work := { s.work with l := some e.lo }, rxf := rest
        trace := s.trace ++ [.busRd .rxLower32deq e.lo] } :=
  onBusRead_ok (deviceRead_rxLower32deq h)

theorem waitStatus_of_nil (h : s.rxf = []) : waitStatus s = s.faultedBy (.rxEmpty .rxStatus) :=
  onBusRead_error (deviceRead_of_empty h (.inl rfl))

theorem waitUpper_of_nil (h : s.rxf = []) : waitUpper s = s.faultedBy (.rxEmpty .rxUpper32) :=
  onBusRead_error (deviceRead_of_empty h (.inr (.inl rfl)))

theorem waitLower_of_nil (h : s.rxf = []) : waitLower s = s.faultedBy (.rxEmpty .rxLower32deq) :=
  onBusRead_error (deviceRead_of_empty h (.inr (.inr rfl)))

/-! ### The append, the overflow test and the end of packet -/

section append

variable {c : Nat} {m m' : Memory} (hc : c = if sopOf s.cfg st then 0 else cursor)
include hc

theorem waitAppend_of_stores (hlo : store32 b c lo s.mem = .ok m) (hup : store32 b (c + 4) up m = .ok m') :
    waitAppend b cursor st up lo s =
      { s with mem := m', work := { s.work with cursor := some (c + 8) }, fsm := .wOvf } := by
  simp only [waitAppend, ← hc, hlo, hup]

theorem waitAppend_of_lower_oob (hlo : b.extent < c + 4) :
    waitAppend b cursor st up lo s = s.faultedBy (.bufOob b c) := by
  simp only [waitAppend, ← hc, store32_of_lt hlo]
  rfl

theorem waitAppend_of_upper_oob (hlo : store32 b c lo s.mem = .ok m) (hup : b.extent < c + 8) :
    waitAppend b cursor st up lo s = ({ s with mem := m } : State).faultedBy (.bufOob b (c + 4)) := by
  simp only [waitAppend, ← hc, hlo, store32_of_lt (show b.extent < c + 4 + 4 from hup)]
  rfl

end append

/-- Two stores of neighbouring words: both words stand in memory, and no other byte is written (R72). -/
theorem read_store32_pair {c : Nat} {m m₁ m₂ : Memory} (hm : m.wf) (hlo : store32 b c lo m = .ok m₁)
    (hup : store32 b (c + 4) up m₁ = .ok m₂) :
    (∀ i, i < 4 → m₂.read (b.base + c + i) = byteOf lo i ∧ m₂.read (b.base + c + 4 + i) = byteOf up i) ∧
      ∀ a, a < b.base + c ∨ b.base + c + 8 ≤ a → m₂.read a = m.read a := by
  have hm₁ := store32_wf hm hlo
  refine ⟨fun i hi => ⟨?_, ?_⟩, fun a ha => ?_⟩
  · rw [read_store32_outside hm₁ hup (by simp only [bufAddr]; omega), Nat.add_assoc]
    exact read_store32_inside hm hlo hi
  · rw [Nat.add_assoc, Nat.add_assoc, ← Nat.add_assoc c]
    exact read_store32_inside hm₁ hup hi
  · rw [read_store32_outside hm₁ hup (by simp only [bufAddr]; omega),
      read_store32_outside hm hlo (by simp only [bufAddr]; omega)]

theorem waitOverflow_of_gt (h : cap < cursor / 4) :
    waitOverflow cap cursor s = s.returned 0x12 .overflow [.diagOverflow] := if_pos h

theorem waitOverflow_of_le (h : cursor / 4 ≤ cap) : waitOverflow cap cursor s = { s with fsm := .wDl2 } :=
  if_neg (Nat.not_lt.2 h)

theorem waitEop_of_last (h : eopOf s.cfg st = true) :
    waitEop cursor st s = s.returned 0x12 (.bytes cursor) [] :=
  (if_pos h).trans (finish_eq_returned_nil _ _)

theorem waitEop_of_more (h : ¬ eopOf s.cfg st = true) : waitEop cursor st s = { s with fsm := .wSt } := if_neg h

end wait

/-- Settles O20: the two checks in their order, then the accepted call. -/
theorem waitEntryChecks : Obligations.WaitEntryChecks := by
  intro s b cap deadline hf
  rw [exec_wait_entry hf]
  split_ifs with hb hcap
  · rw [waitInit_bufAlign hb]; rfl
  · rw [waitInit_lenRange (not_not.1 hb) hcap]; rfl
  · rw [waitInit_accepted (not_not.1 hb) (Nat.lt_of_not_le hcap)]

/-- Settles O21: away from equality the predicate decides, and at equality the listed tie answers. -/
theorem deadlinePredicate : Obligations.DeadlinePredicate := by
  intro s c deadline
  refine ⟨fun h => by rw [past_of_lt h], fun h => by rw [past_of_gt h], ?_⟩
  rintro rfl answer
  exact ⟨{ ties := [answer] }, by rw [past_self]; rfl⟩

/-- Settles O23: what a counter read and the deadline predicate can answer, for either check. -/
theorem waitDeadlineChecks : Obligations.WaitDeadlineChecks := by
  intro s b cap deadline next hf
  obtain ⟨c, env, hread, hlast⟩ := readCounter_spec s
  obtain ⟨past, env', hpast, hbelow, habove⟩ := past_spec s.readCounter.2 c deadline
  rw [hread] at hpast
  refine ⟨c, past, env', hlast, hbelow, habove, ?_⟩
  rw [exec_wait_deadline hf, waitDeadline_eq hread hpast]
  cases past <;> rfl

/-- Settles O24: the poll of an empty and of an occupied RXF, then each read of a head and of no head. -/
theorem waitPollsAndReadsEntry : Obligations.WaitPollsAndReadsEntry := by
  intro s b cap deadline
  refine ⟨fun hf => ⟨fun h => ?_, fun h => ?_⟩, fun e rest h => ⟨fun hf => ?_, fun hf => ?_, fun hf => ?_⟩,
    fun h => ⟨fun hf => ?_, fun hf => ?_, fun hf => ?_⟩⟩
  · rw [exec_wait_ready hf, waitReady_of_nil h]
  · rw [exec_wait_ready hf, waitReady_of_ne_nil h]
  · rw [exec_wait_status hf, waitStatus_of_cons h]
  · rw [exec_wait_upper hf, waitUpper_of_cons h]
  · rw [exec_wait_lower hf, waitLower_of_cons h]
  · rw [exec_wait_status hf, waitStatus_of_nil h]
  · rw [exec_wait_upper hf, waitUpper_of_nil h]
  · rw [exec_wait_lower hf, waitLower_of_nil h]

/-- Settles O25: both stores have room, so the append is the two of them. -/
theorem waitAppendStores : Obligations.WaitAppendStores := by
  intro s b cap deadline cursor c st up lo hf hm hcur hs hu hl hc hroom
  have lower := store32_of_le (v := lo) (m := s.mem) (show c + 4 ≤ b.extent by omega)
  have upper := fun m => store32_of_le (v := up) (m := m) (show c + 4 + 4 ≤ b.extent from hroom)
  obtain ⟨words, frame⟩ := read_store32_pair hm lower (upper _)
  exact ⟨_, store32_wf (store32_wf hm lower) (upper _), words, frame, by
    rw [exec_wait_append hf hcur hs hu hl, waitAppend_of_stores hc lower (upper _)]⟩

/-- Settles O26: the lower store faults, or it is done and the upper one faults. -/
theorem waitAppendOutOfBounds : Obligations.WaitAppendOutOfBounds := by
  intro s b cap deadline cursor c st up lo hf hm hcur hs hu hl hc
  rw [exec_wait_append hf hcur hs hu hl]
  refine ⟨fun hlo => by rw [waitAppend_of_lower_oob hc hlo], fun hlo hup => ?_⟩
  have lower := store32_of_le (v := lo) (m := s.mem) hlo
  refine ⟨_, store32_wf hm lower, fun i hi => ?_, fun a ha => read_store32_outside hm lower ha, ?_⟩
  · rw [Nat.add_assoc]
    exact read_store32_inside hm lower hi
  · rw [waitAppend_of_upper_oob hc lower hup]

/-- Settles O27: the two outcomes of the overflow test. -/
theorem waitOverflowTest : Obligations.WaitOverflowTest := by
  intro s b cap deadline cursor hf hcur
  rw [exec_wait_overflow hf hcur]
  split_ifs with h
  · rw [waitOverflow_of_gt h]
  · rw [waitOverflow_of_le (Nat.le_of_not_lt h)]

/-- Settles O28: the two outcomes of the endofpacket bit. -/
theorem waitEndOfPacket : Obligations.WaitEndOfPacket := by
  intro s b cap deadline cursor st hf hcur hs
  rw [exec_wait_eop hf hcur hs]
  split_ifs with h
  · rw [waitEop_of_last h]
  · rw [waitEop_of_more h]

end Sys2Proof.Machine
end

section
/-! Runs of framer steps within one call, `drain_pcie_core` state by state (R196 to R198), and the statements O30 and
O31 that they settle. -/

namespace Sys2Proof.Machine

/-! ### Framer steps of one call -/

/-- From `s`, in operation `i`, `k` framer steps lead to `t`, and `i` is still the operation there. -/
def RunsWithin (i : Instr) (k : Nat) (s t : State) : Prop :=
  s.fetch = .op i → framerRun k s = .next t ∧ t.fetch = .op i

section run

variable {s t u : State} {i : Instr} {j k : Nat}

theorem framerRun_add (h : framerRun j s = .next t) (k : Nat) : framerRun (j + k) s = framerRun k t := by
  induction j generalizing s with
  | zero =>
    cases h
    rw [Nat.zero_add]
  | succ j ih =>
    rw [Nat.succ_add]
    simp only [framerRun] at h ⊢
    cases hs : framerStep s with
    | next s' =>
      simp only [hs] at h
      exact ih h
    | fault | refused => simp [hs] at h

theorem framerRun_succ_congr (h : framerStep s = framerStep t) (k : Nat) :
    framerRun (k + 1) s = framerRun (k + 1) t := by
  simp only [framerRun, h]

theorem framerRun_one (hs : s.fetch = .op i) : framerRun 1 s = exec i s := by
  simp only [framerRun, framerStep_op hs]
  cases exec i s <;> rfl

/-- The operation found is the same as long as the program and `hp` are, and the framer stands in one of its states. -/
theorem fetch_congr (hs : s.fetch = .op i) (hprogram : t.program = s.program) (hhp : t.hp = s.hp)
    (hf : t.fsm ∈ statesOf i) : t.fetch = .op i := by
  obtain ⟨-, -, hraw⟩ := fetch_eq_op_iff.1 hs
  rw [← hprogram, ← hhp] at hraw
  exact fetch_eq_op_iff.2
    ⟨fun h => faulted_notMem_statesOf i (h ▸ hf), fun h => refused_notMem_statesOf i (h ▸ hf), hraw⟩

namespace RunsWithin

theorem step (he : exec i s = .next t) (hprogram : t.program = s.program) (hhp : t.hp = s.hp)
    (hf : t.fsm ∈ statesOf i) : RunsWithin i 1 s t := fun hs =>
  ⟨(framerRun_one hs).trans he, fetch_congr hs hprogram hhp hf⟩

theorem trans (h : RunsWithin i j s t) (h' : RunsWithin i k t u) : RunsWithin i (j + k) s u := fun hs => by
  obtain ⟨hrun, ht⟩ := h hs
  obtain ⟨hrun', hu⟩ := h' ht
  exact ⟨(framerRun_add hrun k).trans hrun', hu⟩

/-- A run within a call, then the call's last step. -/
theorem last (h : RunsWithin i j s t) (hs : s.fetch = .op i) (he : exec i t = .next u) :
    framerRun (j + 1) s = .next u := by
  obtain ⟨hrun, ht⟩ := h hs
  rw [framerRun_add hrun, framerRun_one ht, he]

end RunsWithin

end run

/-! ### The states of the drain -/

section drain

variable {s : State} {e : Entry} {rest : List Entry} {k : Nat}

theorem exec_drain_ready (hf : s.fsm = .dRdy) : exec .callDrainPcieCore s = .next (drainReady s) := by
  simp [exec, execCallDrainPcieCore, hf]

theorem drainReady_of_nil (h : s.rxf = []) : drainReady s = s.returned 0x13 .unit [.busRd .rxReady 0] :=
  onBusRead_rxReady_of_nil h

theorem drainReady_of_ne_nil (h : s.rxf ≠ []) :
    drainReady s = { s with fsm := .dSt, trace := s.trace ++ [.busRd .rxReady 1] } :=
  onBusRead_rxReady_of_ne_nil h

/-- The first step of a drain is its ready test, the working registers unwritten (R196, R274; log 3). -/
theorem exec_drain_idle (hf : s.fsm = .idle) :
    exec .callDrainPcieCore s = exec .callDrainPcieCore { s with fsm := .dRdy, work := {} } := by
  simp only [exec, execCallDrainPcieCore, hf]
  rfl

theorem exec_drain_status (hf : s.fsm = .dSt) (h : s.rxf = e :: rest) :
    exec .callDrainPcieCore s =
      .next { s with
        fsm := .dUp, work := { s.work with s := some e.st }
        trace := s.trace ++ [.busRd .rxStatus e.st] } := by
  simp only [exec, execCallDrainPcieCore, hf, drainStatus, onBusRead_ok (deviceRead_rxStatus h)]
  rfl

theorem exec_drain_upper (hf : s.fsm = .dUp) (h : s.rxf = e :: rest) :
    exec .callDrainPcieCore s =
      .next { s with
        fsm := .dLo, work := { s.work with u := some e.up }
        trace := s.trace ++ [.busRd .rxUpper32 e.up] } := by
  simp only [exec, execCallDrainPcieCore, hf, drainUpper, onBusRead_ok (deviceRead_rxUpper32 h)]
  rfl

theorem exec_drain_lower (hf : s.fsm = .dLo) (h : s.rxf = e :: rest) :
    exec .callDrainPcieCore s =
      .next { s with
        fsm := .dSpin, work := { s.work with l := some e.lo, k := some 0 }, rxf := rest
        trace := s.trace ++ [.busRd .rxLower32deq e.lo] } := by
  simp only [exec, execCallDrainPcieCore, hf, drainLower, onBusRead_ok (deviceRead_rxLower32deq h)]
  rfl

theorem exec_drain_spin_of_lt (hf : s.fsm = .dSpin) (hk : s.work.k = some k) (h : k < s.cfg.drainSpin) :
    exec .callDrainPcieCore s = .next { s with work := { s.work with k := some (k + 1) } } := by
  simp only [exec, execCallDrainPcieCore, hf, hk, readWork_some, drainSpin, if_pos h]

theorem exec_drain_spin_of_le (hf : s.fsm = .dSpin) (hk : s.work.k = some k) (h : s.cfg.drainSpin ≤ k) :
    exec .callDrainPcieCore s = .next { s with fsm := .dRdy } := by
  simp only [exec, execCallDrainPcieCore, hf, hk, readWork_some, drainSpin, if_neg (Nat.not_lt.2 h)]
  rfl

end drain

/-- Settles O30: the ready test from `D_RDY` and from the start of the call, each read, and the idle step. -/
theorem drainStates : Obligations.DrainStates := by
  intro s
  refine ⟨fun hf => ⟨fun h => ?_, fun h => ?_⟩, fun hf => ⟨fun h => ?_, fun h => ?_⟩,
    fun e rest h => ⟨fun hf => exec_drain_status hf h, fun hf => exec_drain_upper hf h,
      fun hf => exec_drain_lower hf h⟩, fun k hf hk => ?_⟩
  · rw [exec_drain_ready hf, drainReady_of_nil h]
  · rw [exec_drain_ready hf, drainReady_of_ne_nil h]
  · rw [exec_drain_idle hf, exec_drain_ready rfl, drainReady_of_nil (by exact h)]
  · rw [exec_drain_idle hf, exec_drain_ready rfl, drainReady_of_ne_nil (by exact h)]
  · split_ifs with hspin
    · exact exec_drain_spin_of_lt hf hk hspin
    · exact exec_drain_spin_of_le hf hk (Nat.le_of_not_lt hspin)

/-! ### A whole drain -/

section wholeDrain

variable {s : State} {e : Entry} {rest : List Entry} {j k : Nat}

/-- The `j` idle steps that are left at count `k`, then the step back to the ready test (R198). -/
theorem runsWithin_drainSpin (hf : s.fsm = .dSpin) (hk : s.work.k = some k) (hj : j + k = s.cfg.drainSpin) :
    RunsWithin .callDrainPcieCore (j + 1) s
      { s with fsm := .dRdy, work := { s.work with k := some s.cfg.drainSpin } } := by
  induction j generalizing s k with
  | zero =>
    rw [Nat.zero_add] at hj
    rw [← hj, ← hk]
    exact .step (exec_drain_spin_of_le hf hk (by omega)) rfl rfl (by simp [statesOf])
  | succ j ih =>
    rw [Nat.add_comm]
    exact .trans (.step (exec_drain_spin_of_lt hf hk (by omega)) rfl rfl (by simp [statesOf, hf]))
      (ih hf rfl (show j + (k + 1) = s.cfg.drainSpin by omega))

/-- One entry discarded, from the ready test back to it (R196 to R198). -/
theorem runsWithin_discard (hf : s.fsm = .dRdy) (h : s.rxf = e :: rest) :
    ∃ w, RunsWithin .callDrainPcieCore (5 + s.cfg.drainSpin) s
      { s with fsm := .dRdy, work := w, rxf := rest, trace := s.trace ++ discardEvents e } := by
  have ready := (exec_drain_ready hf).trans (congrArg _ (drainReady_of_ne_nil (by simp [h])))
  have reads := (((RunsWithin.step ready rfl rfl (by simp [statesOf])).trans
    (.step (exec_drain_status rfl h) rfl rfl (by simp [statesOf]))).trans
    (.step (exec_drain_upper rfl h) rfl rfl (by simp [statesOf]))).trans
    (.step (exec_drain_lower rfl h) rfl rfl (by simp [statesOf]))
  have discard := reads.trans (runsWithin_drainSpin rfl rfl (Nat.add_zero _))
  rw [show 5 + s.cfg.drainSpin = 1 + 1 + 1 + 1 + (s.cfg.drainSpin + 1) by omega]
  exact ⟨_, by simpa only [discardEvents, List.append_assoc, List.cons_append, List.nil_append] using discard⟩

/-- A drain from its ready test on: every entry discarded, then the return (R196, R199). -/
theorem framerRun_drain (hs : s.fetch = .op .callDrainPcieCore) (hf : s.fsm = .dRdy) :
    framerRun (s.rxf.length * (5 + s.cfg.drainSpin) + 1) s =
      .next (({ s with rxf := [] } : State).returned 0x13 .unit
        (s.rxf.flatMap discardEvents ++ [.busRd .rxReady 0])) := by
  induction h : s.rxf generalizing s with
  | nil =>
    rw [List.length_nil, Nat.zero_mul, Nat.zero_add, framerRun_one hs, exec_drain_ready hf, drainReady_of_nil h,
      List.flatMap_nil, List.nil_append, ← h]
  | cons e rest ih =>
    obtain ⟨w, discard⟩ := runsWithin_discard hf h
    obtain ⟨hrun, hfetch⟩ := discard hs
    rw [List.length_cons, Nat.succ_mul, Nat.add_right_comm, Nat.add_comm, framerRun_add hrun, ih hfetch rfl rfl]
    simp [State.returned]

end wholeDrain

/-- Settles O31: the start takes the step of the ready test, and the rest is an induction on RXF. -/
theorem drainEmptiesFifo : Obligations.DrainEmptiesFifo := by
  intro s hf hs
  have hs' : ({ s with fsm := .dRdy, work := {} } : State).fetch = .op .callDrainPcieCore :=
    fetch_congr hs rfl rfl (by simp [statesOf])
  have start : framerStep s = framerStep { s with fsm := .dRdy, work := {} } := by
    rw [framerStep_op hs, framerStep_op hs', exec_drain_idle hf]
  rw [framerRun_succ_congr start]
  exact framerRun_drain hs' rfl

end Sys2Proof.Machine
end

section
/-! A packet that stands in RXF, reassembled by `wait_for_tlp` (R193): the bytes of an attempt, one entry from `W_ST` to
`W_EOP`, the loop over the entries, and the statement O32 that they settle. -/

namespace Sys2Proof.Machine

/-! ### The attempt in progress and its bytes -/

section attempt

variable {p : Params} {read es : List Entry} {e : Entry} {b : Buffer} {m m' : Memory}

/-- What is kept of the attempt in progress when `e` is read after `read`: nothing at a start of packet (R188). -/
def keptAttempt (p : Params) (read : List Entry) (e : Entry) : List Entry :=
  if sopOf p e.st then [] else attemptOf p read

theorem attemptOf_concat : attemptOf p (read ++ [e]) = keptAttempt p read e ++ [e] := by
  simp only [attemptOf, keptAttempt, List.foldl_append, List.foldl_cons, List.foldl_nil]
  split <;> rfl

theorem length_keptAttempt_le (h : (attemptOf p read).length ≤ read.length) :
    (keptAttempt p read e).length ≤ read.length := by
  unfold keptAttempt
  split
  · exact Nat.zero_le _
  · exact h

theorem length_attemptOf_le (p : Params) (read : List Entry) : (attemptOf p read).length ≤ read.length := by
  induction read using List.reverseRecOn with
  | nil => exact Nat.le_refl 0
  | append_singleton read e ih =>
    rw [attemptOf_concat, List.length_append, List.length_append]
    exact Nat.add_le_add_right (length_keptAttempt_le ih) 1

theorem payloadByte_append_left {es' : List Entry} {o : Nat} (ho : o < 8 * es.length) :
    payloadByte (es ++ es') o = payloadByte es o := by
  rw [payloadByte, payloadByte, List.getElem?_append_left (by omega)]

theorem payloadByte_concat_lower {i : Nat} (hi : i < 4) :
    payloadByte (es ++ [e]) (8 * es.length + i) = byteOf e.lo i := by
  have index : (8 * es.length + i) / 8 = es.length := by omega
  have offset : (8 * es.length + i) % 8 = i := by omega
  simp [payloadByte, index, offset, hi]

theorem payloadByte_concat_upper {i : Nat} (hi : i < 4) :
    payloadByte (es ++ [e]) (8 * es.length + 4 + i) = byteOf e.up i := by
  have index : (8 * es.length + 4 + i) / 8 = es.length := by omega
  have offset : (8 * es.length + 4 + i) % 8 = 4 + i := by omega
  simp [payloadByte, index, offset]

/-- The bytes of a list of entries stand in memory from the buffer's base on (R193 (b)). -/
def HoldsPayload (b : Buffer) (es : List Entry) (m : Memory) : Prop :=
  ∀ o, o < 8 * es.length → m.read (b.base + o) = payloadByte es o

/-- The two words of an entry, written at the end of the bytes that stand, are the bytes of one entry more. -/
theorem HoldsPayload.concat (h : HoldsPayload b es m)
    (words : ∀ i, i < 4 → m'.read (b.base + 8 * es.length + i) = byteOf e.lo i ∧
      m'.read (b.base + 8 * es.length + 4 + i) = byteOf e.up i)
    (frame : ∀ a, a < b.base + 8 * es.length ∨ b.base + 8 * es.length + 8 ≤ a → m'.read a = m.read a) :
    HoldsPayload b (es ++ [e]) m' := by
  intro o ho
  rw [List.length_append, List.length_singleton] at ho
  by_cases before : o < 8 * es.length
  · rw [frame _ (.inl (by omega)), h o before, payloadByte_append_left before]
  by_cases lower : o < 8 * es.length + 4
  · obtain ⟨i, rfl⟩ := Nat.exists_eq_add_of_le (Nat.le_of_not_lt before)
    rw [payloadByte_concat_lower (by omega), ← Nat.add_assoc]
    exact (words i (by omega)).1
  · obtain ⟨i, rfl⟩ := Nat.exists_eq_add_of_le (Nat.le_of_not_lt lower)
    rw [payloadByte_concat_upper (by omega), ← Nat.add_assoc, ← Nat.add_assoc]
    exact (words i (by omega)).2

end attempt

/-! ### The counter below the deadline -/

section counter

variable {s : State} {b : Buffer} {cap deadline tick : Nat} {ticks : List Nat} {next : Fsm}

/-- A deadline check whose listed increment keeps the counter below the deadline goes on (R183, R190, R192). -/
theorem exec_wait_deadline_early (hf : (s.fsm = .wDl ∧ next = .wRdy) ∨ (s.fsm = .wDl2 ∧ next = .wEop))
    (hticks : s.env.ticks = tick :: ticks) (hearly : s.cntLast.getD 0 + tick < deadline) :
    exec (.callWaitForTlp b cap deadline) s =
      .next { s with
        fsm := next, cntLast := some (s.cntLast.getD 0 + tick)
        env := { s.env with ticks := ticks, draws := s.env.draws + 1 }
        trace := s.trace ++ [.cntRd (s.cntLast.getD 0 + tick)] } := by
  have drawn : s.drawTick = (tick, { s with env := { s.env with ticks := ticks, draws := s.env.draws + 1 } }) := by
    simp only [State.drawTick, hticks, List.headD_cons, List.tail_cons]
  have read : s.readCounter = (s.cntLast.getD 0 + tick, s.readCounter.2) := by
    simp only [State.readCounter, drawn]
  rw [exec_wait_deadline hf, waitDeadline_eq read (past_of_lt hearly)]
  simp only [State.readCounter, drawn]
  rfl

end counter

/-! ### One entry, from `W_ST` to `W_EOP` -/

/-- The first state at `W_ST`: the call accepted, the counter read once, the ready poll answered (R182 to R184). -/
def State.polled (tick : Nat) (ticks : List Nat) (s : State) : State :=
  { s with
    fsm := .wSt, work := { cursor := some 0 }, cntLast := some (s.cntLast.getD 0 + tick)
    env := { s.env with ticks := ticks, draws := s.env.draws + 1 }
    trace := s.trace ++ [.cntRd (s.cntLast.getD 0 + tick), .busRd .rxReady 1] }

/-- The state at `W_APP` after the three reads of the head `e` (R185 to R187). -/
def State.headRead (e : Entry) (rest : List Entry) (s : State) : State :=
  { s with
    fsm := .wApp, rxf := rest, work := { s.work with s := some e.st, u := some e.up, l := some e.lo }
    trace := s.trace ++ [.busRd .rxStatus e.st, .busRd .rxUpper32 e.up, .busRd .rxLower32deq e.lo] }

/-- The state at `W_EOP` after `e` has been appended and the counter read again (R188 to R190). -/
def State.entryRead (e : Entry) (rest : List Entry) (m : Memory) (cursor tick : Nat) (ticks : List Nat) (s : State) :
    State :=
  { s with
    fsm := .wEop, rxf := rest, mem := m, cntLast := some (s.cntLast.getD 0 + tick)
    work := { s.work with cursor := some cursor, s := some e.st, u := some e.up, l := some e.lo }
    env := { s.env with ticks := ticks, draws := s.env.draws + 1 }
    trace := s.trace ++ [.busRd .rxStatus e.st, .busRd .rxUpper32 e.up, .busRd .rxLower32deq e.lo,
      .cntRd (s.cntLast.getD 0 + tick)] }

section entry

variable {s : State} {b : Buffer} {cap deadline cursor tick : Nat} {ticks : List Nat} {e : Entry} {rest : List Entry}

/-- An accepted call with an entry in RXF and the deadline not past: entry, deadline check, ready poll. -/
theorem runsWithin_polled (hf : s.fsm = .idle) (hb : b.base % 8 = 0) (hcap : cap < 2 ^ 32)
    (hticks : s.env.ticks = tick :: ticks) (hearly : s.cntLast.getD 0 + tick < deadline) (hrx : s.rxf ≠ []) :
    RunsWithin (.callWaitForTlp b cap deadline) 3 s (s.polled tick ticks) := by
  have init := (exec_wait_entry (deadline := deadline) (.inl hf)).trans (congrArg _ (waitInit_accepted hb hcap))
  have start := ((RunsWithin.step init rfl rfl (by simp [statesOf])).trans
    (.step (exec_wait_deadline_early (.inl ⟨rfl, rfl⟩) hticks hearly) rfl rfl (by simp [statesOf]))).trans
    (.step ((exec_wait_ready rfl).trans (congrArg _ (waitReady_of_ne_nil hrx))) rfl rfl (by simp [statesOf]))
  simpa only [State.polled, List.append_assoc, List.cons_append, List.nil_append] using start

theorem runsWithin_headRead (hf : s.fsm = .wSt) (hrx : s.rxf = e :: rest) :
    RunsWithin (.callWaitForTlp b cap deadline) 3 s (s.headRead e rest) := by
  have status := (exec_wait_status (b := b) (cap := cap) (deadline := deadline) hf).trans
    (congrArg _ (waitStatus_of_cons hrx))
  have reads := ((RunsWithin.step status rfl rfl (by simp [statesOf])).trans
    (.step ((exec_wait_upper rfl).trans (congrArg _ (waitUpper_of_cons hrx))) rfl rfl (by simp [statesOf]))).trans
    (.step ((exec_wait_lower rfl).trans (congrArg _ (waitLower_of_cons hrx))) rfl rfl (by simp [statesOf]))
  simpa only [State.headRead, List.append_assoc, List.cons_append, List.nil_append] using reads

/-- An entry read, appended with room, within the capacity and before the deadline: its two words stand at `c`. -/
theorem runsWithin_entryRead {c : Nat} (hf : s.fsm = .wSt) (hrx : s.rxf = e :: rest) (hm : s.mem.wf)
    (hcursor : s.work.cursor = some cursor) (hc : c = if sopOf s.cfg e.st then 0 else cursor)
    (hroom : c + 8 ≤ b.extent) (hcap : (c + 8) / 4 ≤ cap) (hticks : s.env.ticks = tick :: ticks)
    (hearly : s.cntLast.getD 0 + tick < deadline) :
    ∃ m : Memory, m.wf ∧
      (∀ i, i < 4 → m.read (b.base + c + i) = byteOf e.lo i ∧ m.read (b.base + c + 4 + i) = byteOf e.up i) ∧
      (∀ a, a < b.base + c ∨ b.base + c + 8 ≤ a → m.read a = s.mem.read a) ∧
      RunsWithin (.callWaitForTlp b cap deadline) 6 s (s.entryRead e rest m (c + 8) tick ticks) := by
  obtain ⟨m, hmwf, words, frame, append⟩ := waitAppendStores (s.headRead e rest) b cap deadline cursor c
    e.st e.up e.lo rfl hm hcursor rfl rfl rfl hc hroom
  refine ⟨m, hmwf, words, frame, ?_⟩
  have entry := (((runsWithin_headRead hf hrx).trans
    (.step append rfl rfl (by simp [statesOf]))).trans
    (.step ((exec_wait_overflow rfl rfl).trans (congrArg _ (waitOverflow_of_le hcap))) rfl rfl
      (by simp [statesOf]))).trans
    (.step (exec_wait_deadline_early (.inr ⟨rfl, rfl⟩) hticks hearly) rfl rfl (by simp [statesOf]))
  simpa only [State.headRead, State.entryRead, List.append_assoc, List.cons_append, List.nil_append] using entry

end entry

/-! ### The loop over the entries of a packet -/

/-- The call stands at `W_ST` with `todo` in RXF, and `rest` behind it: the bytes of the attempt in `read` stand in the
buffer, and the buffer, the capacity and the deadline leave room for `todo`. -/
structure Receiving (b : Buffer) (cap deadline : Nat) (read todo rest : List Entry) (s : State) : Prop where
  control : s.fsm = .wSt
  memWf : s.mem.wf
  cursor : s.work.cursor = some (8 * (attemptOf s.cfg read).length)
  payload : HoldsPayload b (attemptOf s.cfg read) s.mem
  rxf : s.rxf = todo ++ rest
  room : 8 * (read.length + todo.length) ≤ b.extent
  capacity : 2 * (read.length + todo.length) ≤ cap
  ticks : todo.length ≤ s.env.ticks.length
  early : s.cntLast.getD 0 + (s.env.ticks.take todo.length).sum < deadline

/-- The call has returned the bytes of the attempt in `read ++ todo`, `todo` read since `s`. -/
structure Reassembled (b : Buffer) (read todo rest : List Entry) (s t : State) : Prop where
  control : t.fsm = .idle
  hp : t.hp = s.hp + 1
  rxf : t.rxf = rest
  ret : t.work.ret = some (.bytes (8 * (attemptOf s.cfg (read ++ todo)).length))
  payload : HoldsPayload b (attemptOf s.cfg (read ++ todo)) t.mem
  frame : ∀ a, a < b.base ∨ b.base + 8 * (read.length + todo.length) ≤ a → t.mem.read a = s.mem.read a
  trace : t.trace = s.trace ++ receiveEvents (s.cntLast.getD 0) s.env.ticks todo ++
    [.ret 0x12 (.bytes (8 * (attemptOf s.cfg (read ++ todo)).length))]

section packet

variable {s : State} {b : Buffer} {cap deadline : Nat} {read todo rest : List Entry} {e : Entry}

/-- One entry of the loop: it joins the attempt, its bytes stand behind the attempt's, and no other byte changes. -/
theorem Receiving.entryRead (h : Receiving b cap deadline read (e :: todo) rest s) :
    ∃ m tick ticks, s.env.ticks = tick :: ticks ∧ m.wf ∧ HoldsPayload b (attemptOf s.cfg (read ++ [e])) m ∧
      (∀ a, a < b.base ∨ b.base + 8 * (read.length + 1) ≤ a → m.read a = s.mem.read a) ∧
      RunsWithin (.callWaitForTlp b cap deadline) 6 s
        (s.entryRead e (todo ++ rest) m (8 * (attemptOf s.cfg (read ++ [e])).length) tick ticks) := by
  obtain ⟨hf, hm, hcursor, hpayload, hrx, hroom, hcap, hlen, hearly⟩ := h
  obtain ⟨tick, ticks, hticks⟩ := List.exists_cons_of_length_pos (Nat.lt_of_lt_of_le (Nat.succ_pos _) hlen)
  have kept := length_keptAttempt_le (e := e) (length_attemptOf_le s.cfg read)
  simp only [hticks, List.length_cons, List.take_succ_cons, List.sum_cons] at hroom hcap hearly
  obtain ⟨m, hmwf, words, frame, hrun⟩ := runsWithin_entryRead (b := b) (cap := cap) (deadline := deadline)
    (c := 8 * (keptAttempt s.cfg read e).length) hf hrx hm hcursor
    (by unfold keptAttempt; split <;> rfl) (by omega) (by omega) hticks (by omega)
  refine ⟨m, tick, ticks, hticks, hmwf, ?_, fun a ha => frame a (by omega), ?_⟩
  · rw [attemptOf_concat]
    refine HoldsPayload.concat (m := s.mem) ?_ words frame
    unfold keptAttempt
    split
    · intro o ho
      cases ho
    · exact hpayload
  · rw [attemptOf_concat, List.length_append, List.length_singleton]
    exact hrun

/-- After the last entry of a packet the attempt's bytes are returned (R191). -/
theorem Receiving.last (h : Receiving b cap deadline read [e] rest s)
    (hs : s.fetch = .op (.callWaitForTlp b cap deadline)) (heop : eopOf s.cfg e.st = true) :
    ∃ t, framerRun 7 s = .next t ∧ Reassembled b read [e] rest s t := by
  obtain ⟨m, tick, ticks, hticks, -, hpayload, frame, hrun⟩ := h.entryRead
  refine ⟨_, hrun.last hs ((exec_wait_eop rfl rfl rfl).trans (congrArg _ (waitEop_of_last heop))), rfl, rfl, rfl, rfl,
    hpayload, frame, ?_⟩
  simp [State.entryRead, receiveEvents, hticks]

/-- After any other entry the loop goes on, and what it then returns it returns for `e` as well (R191). -/
theorem Receiving.more (h : Receiving b cap deadline read (e :: todo) rest s) (heop : eopOf s.cfg e.st = false) :
    ∃ t, RunsWithin (.callWaitForTlp b cap deadline) 7 s t ∧ t.cfg = s.cfg ∧
      Receiving b cap deadline (read ++ [e]) todo rest t ∧
      ∀ u, Reassembled b (read ++ [e]) todo rest t u → Reassembled b read (e :: todo) rest s u := by
  obtain ⟨m, tick, ticks, hticks, hmwf, hpayload, frame, hrun⟩ := h.entryRead
  obtain ⟨-, -, -, -, -, hroom, hcap, hlen, hearly⟩ := h
  simp only [hticks, List.length_cons, List.take_succ_cons, List.sum_cons] at hroom hcap hlen hearly
  have length_concat : (read ++ [e]).length = read.length + 1 := List.length_append
  refine ⟨_, hrun.trans (.step ((exec_wait_eop rfl rfl rfl).trans (congrArg _ (waitEop_of_more
    (ne_true_of_eq_false heop)))) rfl rfl (by simp [statesOf])), rfl, ?_, fun u hu => ?_⟩
  · exact ⟨rfl, hmwf, rfl, hpayload, rfl, by omega, by omega, Nat.le_of_succ_le_succ hlen,
      by simpa [State.entryRead, Nat.add_assoc] using hearly⟩
  · obtain ⟨hf, hhp, hrx, hret, hbytes, hframe, htrace⟩ := hu
    have assoc : read ++ [e] ++ todo = read ++ e :: todo := (List.append_cons read e todo).symm
    rw [assoc] at hret hbytes htrace
    refine ⟨hf, hhp, hrx, hret, hbytes, fun a ha => ?_, ?_⟩
    · rw [List.length_cons] at ha
      exact (hframe a (by omega)).trans (frame a (by omega))
    · rw [htrace]
      simp [State.entryRead, receiveEvents, hticks]

/-- The loop over a packet: seven steps for each entry (R193). -/
theorem Receiving.framerRun_packet {before : List Entry} {last : Entry}
    (h : Receiving b cap deadline read (before ++ [last]) rest s)
    (hs : s.fetch = .op (.callWaitForTlp b cap deadline)) (hbefore : ∀ e ∈ before, eopOf s.cfg e.st = false)
    (hlast : eopOf s.cfg last.st = true) :
    ∃ t, framerRun (7 * before.length + 7) s = .next t ∧ Reassembled b read (before ++ [last]) rest s t := by
  induction before generalizing read s with
  | nil => exact h.last hs hlast
  | cons e before ih =>
    obtain ⟨heop, htail⟩ := List.forall_mem_cons.1 hbefore
    obtain ⟨t, hentry, hcfg, ht, hlift⟩ := Receiving.more h heop
    obtain ⟨hrun, hfetch⟩ := hentry hs
    obtain ⟨u, hrun', hu⟩ := ih ht hfetch (hcfg ▸ htail) (hcfg ▸ hlast)
    refine ⟨u, ?_, hlift u hu⟩
    rw [List.length_cons, Nat.mul_succ, Nat.add_comm, framerRun_add hrun]
    exact hrun'

end packet

/-- Settles O32: the accepted call stands at `W_ST` with nothing read, and its loop over the packet returns. -/
theorem waitReassemblesPacket : Obligations.WaitReassemblesPacket := by
  intro s b cap deadline before last rest hf hs hm hb hcap hrx hbefore hlast hcapacity hroom hlen hearly
  obtain ⟨tick, ticks, hticks⟩ := List.exists_cons_of_length_pos (Nat.lt_of_lt_of_le (Nat.succ_pos _) hlen)
  simp only [hticks, List.length_cons, List.take_succ_cons, List.sum_cons] at hlen hearly
  have length_concat : (before ++ [last]).length = before.length + 1 := List.length_append
  obtain ⟨hrun, hfetch⟩ := runsWithin_polled (deadline := deadline) hf hb hcap hticks (by omega)
    (by simp [hrx]) hs
  have start : Receiving b cap deadline [] (before ++ [last]) rest (s.polled tick ticks) :=
    { control := rfl
      memWf := hm
      cursor := rfl
      payload := fun _ ho => nomatch ho
      rxf := by simp [State.polled, hrx]
      room := by rwa [length_concat, List.length_nil, Nat.zero_add]
      capacity := by rwa [length_concat, List.length_nil, Nat.zero_add]
      ticks := by rw [length_concat]; exact Nat.le_of_succ_le_succ hlen
      early := by rw [length_concat]; simpa [State.polled, Nat.add_assoc] using hearly }
  obtain ⟨t, hrun', hidle, hhp, hrest, hret, hpayload, hframe, htrace⟩ :=
    start.framerRun_packet hfetch hbefore hlast
  refine ⟨t, ?_, hidle, hhp, hrest, hret, hpayload, fun a ha => ?_, ?_⟩
  · rw [Nat.add_comm, show 10 = 3 + 7 from rfl, Nat.add_assoc, framerRun_add hrun, Nat.add_comm, hrun']
  · exact hframe a (by simpa using ha)
  · rw [htrace]
    simp [State.polled, hticks]

end Sys2Proof.Machine
end

section
/-! The emission of a quadword under either transmit procedure (R220, R221), and the statements O33 and O34 that it
settles. -/

namespace Sys2Proof.Machine

/-! ### A bus write in a framer state -/

section busWrite

variable {s t : State} {r : Reg} {v : Word} {c : FaultCode} {rest : State → State}

theorem onBusWrite_ok (h : deviceWrite r v s = .ok t) : onBusWrite r v s rest = rest (t.emit (.busWr r v)) := by
  rw [onBusWrite, h]

theorem onBusWrite_error (h : deviceWrite r v s = .error c) : onBusWrite r v s rest = s.raise c := by
  rw [onBusWrite, h]

end busWrite

/-! ### The three states of an emission -/

/-- An operation that emits quadwords: a call of one of the two transmit procedures (R222, R237). -/
abbrev Instr.Transmits (i : Instr) : Prop :=
  (∃ header headerLen data dataLen alignment, i = .callSendTlp header headerLen data dataLen alignment) ∨
    ∃ tlp tlpLen, i = .callSendTlpUnaligned tlp tlpLen

theorem transmits_sendTlp {header : Buffer} {headerLen : Nat} {data : Option Buffer} {dataLen alignment : Nat} :
    Instr.Transmits (.callSendTlp header headerLen data dataLen alignment) := .inl ⟨_, _, _, _, _, rfl⟩

theorem transmits_sendTlpUnaligned {tlp : Buffer} {tlpLen : Nat} :
    Instr.Transmits (.callSendTlpUnaligned tlp tlpLen) := .inr ⟨_, _, rfl⟩

theorem Instr.Transmits.emission_mem {i : Instr} (hi : Instr.Transmits i) :
    .qSt ∈ statesOf i ∧ .qUp ∈ statesOf i ∧ .qLo ∈ statesOf i := by
  rcases hi with ⟨_, _, _, _, _, rfl⟩ | ⟨_, _, rfl⟩ <;> simp [statesOf]

section emission

variable {s : State} {i : Instr} {qs qe : BitVec 1} {qu ql st up : Word} {kont : Fsm}

theorem exec_quad_status (hi : Instr.Transmits i) (hf : s.fsm = .qSt) (hqs : s.work.qs = some qs)
    (hqe : s.work.qe = some qe) : exec i s = .next (quadStatus qs qe s) := by
  rcases hi with ⟨_, _, _, _, _, rfl⟩ | ⟨_, _, rfl⟩
  · simp [exec, execCallSendTlp, hf, hqs, hqe]
  · simp [exec, execCallSendTlpUnaligned, hf, hqs, hqe]

theorem exec_quad_upper (hi : Instr.Transmits i) (hf : s.fsm = .qUp) (hqu : s.work.qu = some qu) :
    exec i s = .next (quadUpper qu s) := by
  rcases hi with ⟨_, _, _, _, _, rfl⟩ | ⟨_, _, rfl⟩
  · simp [exec, execCallSendTlp, hf, hqu]
  · simp [exec, execCallSendTlpUnaligned, hf, hqu]

theorem exec_quad_lower (hi : Instr.Transmits i) (hf : s.fsm = .qLo) (hql : s.work.ql = some ql)
    (hk : s.work.kont = some kont) : exec i s = .next (quadLower ql kont s) := by
  rcases hi with ⟨_, _, _, _, _, rfl⟩ | ⟨_, _, rfl⟩
  · simp [exec, execCallSendTlp, hf, hql, hk]
  · simp [exec, execCallSendTlpUnaligned, hf, hql, hk]

theorem quadStatus_eq :
    quadStatus qs qe s =
      { s with
        fsm := .qUp, txs := some (txStatusWord s.cfg qs qe)
        trace := s.trace ++ [.busWr .txStatus (txStatusWord s.cfg qs qe)] } := rfl

theorem quadUpper_eq :
    quadUpper qu s = { s with fsm := .qLo, txu := some qu, trace := s.trace ++ [.busWr .txUpper32 qu] } := rfl

/-- With both latches written and room in TXF the push makes one entry (R147). -/
theorem quadLower_of_room (hst : s.txs = some st) (hup : s.txu = some up) (hroom : s.txf.length ≠ s.cfg.txDepth) :
    quadLower ql kont s =
      { s with
        fsm := kont, txf := s.txf ++ [⟨st, up, ql⟩], txs := none, txu := none
        trace := s.trace ++ [.busWr .txLower32send ql] } :=
  onBusWrite_ok (r := .txLower32send) (devicePush_of_room hst hup hroom)

theorem quadLower_of_full (hst : s.txs = some st) (hup : s.txu = some up) (hfull : s.txf.length = s.cfg.txDepth) :
    quadLower ql kont s = s.raise .txFull :=
  onBusWrite_error (r := .txLower32send) (devicePush_of_full hst hup hfull)

theorem quadLower_of_unwritten (h : s.txs = none ∨ s.txu = none) :
    quadLower ql kont s = s.raise (.txLatch s.txs.isNone s.txu.isNone) :=
  onBusWrite_error (r := .txLower32send) (devicePush_of_unwritten h)

end emission

/-- Settles O33: each of the three states under either procedure, the push with its two faults. -/
theorem quadEmissionWrites : Obligations.QuadEmissionWrites := by
  intro s i hi
  refine ⟨fun qs qe hf hqs hqe => ?_, fun qu hf hqu => ?_, fun ql kont hf hql hk => ?_⟩
  · rw [exec_quad_status hi hf hqs hqe, quadStatus_eq, txStatusWord]
  · rw [exec_quad_upper hi hf hqu, quadUpper_eq]
  · rw [exec_quad_lower hi hf hql hk]
    refine ⟨fun h => ?_, fun st up hst hup => ⟨fun hfull => ?_, fun hroom => ?_⟩⟩
    · rw [quadLower_of_unwritten h]; rfl
    · rw [quadLower_of_full hst hup hfull]; rfl
    · rw [quadLower_of_room hst hup hroom]

/-- Settles O34: the status and upper writes within the call, then the push, the emission's last step. -/
theorem quadEmissionPushesOneEntry : Obligations.QuadEmissionPushesOneEntry := by
  intro s i qs qe qu ql kont hi hs hf hqs hqe hqu hql hk hroom
  obtain ⟨-, upMem, loMem⟩ := Instr.Transmits.emission_mem hi
  have status := exec_quad_status hi hf hqs hqe
  have upper := exec_quad_upper (s := quadStatus qs qe s) hi rfl hqu
  have lower := exec_quad_lower (s := quadUpper qu (quadStatus qs qe s)) hi rfl hql hk
  have latched := (RunsWithin.step status rfl rfl upMem).trans (.step upper rfl rfl loMem)
  have push := quadLower_of_room (s := quadUpper qu (quadStatus qs qe s)) (ql := ql) (kont := kont) rfl rfl
    (Nat.ne_of_lt hroom)
  rw [latched.last hs lower, push]
  simp [quadUpper_eq, quadStatus_eq, quadEvents, txStatusWord]

end Sys2Proof.Machine
end

section
/-! The double-words of a quadword (R75, R225) and the states of `send_tlp` and `U_LOOP` that read them (R226 to R233,
R239), and the statements O35 to O40 and O43 that they settle. -/

namespace Sys2Proof.Machine

/-! ### The two double-words of a quadword -/

section sources

variable {s t t' : State} {b b' : Buffer} {len len' o o' : Nat} {hi lo : Word} {c : FaultCode}
  {upper lower : State → Except FaultCode (Word × State)} {rest : Word → Word → State → State}

theorem withQuad_ok (hu : upper s = .ok (hi, t)) (hl : lower t = .ok (lo, t')) :
    withQuad upper lower s rest = rest hi lo t' := by
  simp only [withQuad, hu, hl]

theorem withQuad_upper_error (hu : upper s = .error c) : withQuad upper lower s rest = s.raise c := by
  simp only [withQuad, hu]

theorem withQuad_lower_error (hu : upper s = .ok (hi, t)) (hl : lower t = .error c) :
    withQuad upper lower s rest = s.raise c := by
  simp only [withQuad, hu, hl]

/-- A double-word not wholly owned below the stated length faults at the first byte not owned (R75). -/
theorem srcDW_not_owned (h : ¬ srcOwned b len o) (s : State) : ∃ o', srcDW b len o s = .error (.bufOob b o') := by
  simp only [srcOwned, not_forall] at h
  obtain ⟨i, hi, hl, he⟩ := h
  exact ⟨_, srcDW_oob (i := b.extent - o) (by omega) (by omega) (by omega) (by omega)⟩

/-- A double-word within the stated length and the extent is the one in memory, and nothing is drawn (R75). -/
theorem srcDW_inside (hl : o + 4 ≤ len) (he : o + 4 ≤ b.extent) :
    srcDW b len o s = .ok (wordAt s.mem (b.base + o), s) :=
  srcDW_of_bytes (srcByte_owned (by omega) (by omega)) (srcByte_owned (by omega) (by omega))
    (srcByte_owned (by omega) (by omega)) (srcByte_owned (by omega) (by omega))

theorem withQuad_owned (hu : srcOwned b len o) (hl : srcOwned b' len' o') :
    ∃ hi lo env, srcMatches s.mem b len o hi ∧ srcMatches s.mem b' len' o' lo ∧
      withQuad (srcDW b len o) (srcDW b' len' o') s rest = rest hi lo { s with env := env } := by
  obtain ⟨hi, env, hread, hmatches⟩ := srcDW_answers (s := s) hu
  obtain ⟨lo, env', hread', hmatches'⟩ := srcDW_answers (s := { s with env := env }) hl
  exact ⟨hi, lo, env', hmatches, hmatches', withQuad_ok hread hread'⟩

theorem withQuad_not_owned (h : ¬ (srcOwned b len o ∧ srcOwned b' len' o')) :
    ∃ b'' o'', (b'' = b ∨ b'' = b') ∧
      withQuad (srcDW b len o) (srcDW b' len' o') s rest = s.raise (.bufOob b'' o'') := by
  by_cases hu : srcOwned b len o
  · obtain ⟨hi, env, hread, -⟩ := srcDW_answers (s := s) hu
    obtain ⟨o'', herr⟩ := srcDW_not_owned (not_and.1 h hu) { s with env := env }
    exact ⟨b', o'', .inr rfl, withQuad_lower_error hread herr⟩
  · obtain ⟨o'', herr⟩ := srcDW_not_owned hu s
    exact ⟨b, o'', .inl rfl, withQuad_upper_error herr⟩

end sources

/-- An emission's framing flag as the one-bit value of its register. -/
theorem bit1_decide (p : Prop) [Decidable p] : bit1 (decide p) = if p then 1 else 0 := by
  simp [bit1]

/-! ### The states of `send_tlp` -/

section send

variable {s : State} {header d : Buffer} {data : Option Buffer} {headerLen dataLen alignment bi : Nat}
  {r : RefuseReason}

theorem exec_send_entry (hf : s.fsm = .idle ∨ s.fsm = .sQw0) :
    exec (.callSendTlp header headerLen data dataLen alignment) s =
      .next (sendSeed header headerLen data dataLen alignment s) := by
  rcases hf with hf | hf <;> simp [exec, execCallSendTlp, hf]

theorem exec_send_hold (hf : s.fsm = .sHold) :
    exec (.callSendTlp header headerLen data dataLen alignment) s = .next (sendHold s) := by
  simp [exec, execCallSendTlp, hf]

theorem exec_send_branch (hf : s.fsm = .sBr) :
    exec (.callSendTlp header headerLen data dataLen alignment) s = .next (sendBranch headerLen alignment s) := by
  simp [exec, execCallSendTlp, hf]

theorem exec_send_merged (hf : s.fsm = .sM) :
    exec (.callSendTlp header headerLen data dataLen alignment) s =
      .next (sendMerged header headerLen (dataBuffer data) dataLen s) := by
  simp [exec, execCallSendTlp, hf]

theorem exec_send_generic (hf : s.fsm = .sG) :
    exec (.callSendTlp header headerLen data dataLen alignment) s =
      .next (sendGeneric header headerLen dataLen s) := by
  simp [exec, execCallSendTlp, hf]

/-- The two data loops are one function of the state they come back to (R230, R232). -/
theorem exec_send_data (hf : s.fsm = .sUl ∨ s.fsm = .sAl) (hbi : s.work.bi = some bi) :
    exec (.callSendTlp header headerLen data dataLen alignment) s =
      .next (sendData (dataBuffer data) dataLen bi s.fsm s) := by
  rcases hf with hf | hf <;> simp [exec, execCallSendTlp, hf, hbi]

theorem exec_send_release (hf : s.fsm = .sRel) :
    exec (.callSendTlp header headerLen data dataLen alignment) s = .next (sendRelease s) := by
  simp [exec, execCallSendTlp, hf]

/-- The reason that refuses the call, in the rule's order (R223, R76). -/
theorem firstFailing_sendChecks (p : Params) :
    firstFailing (sendChecks header headerLen data dataLen alignment p) =
      if headerLen ≠ 12 ∧ headerLen ≠ 16 then some .hdrLen
      else if dataLen % 4 ≠ 0 then some .dataLen
      else if dataLen ≥ 2 ^ 31 then some .lenRange
      else if alignment ≠ p.alignedCode ∧ alignment ≠ p.unalignedCode then some .alignMode
      else if header.base % 8 ≠ 0 ∨ (dataBuffer data).base % 8 ≠ 0 then some .bufAlign
      else none := by
  simp only [sendChecks, firstFailing, baseAligned]
  grind

theorem sendSeed_refused (h : firstFailing (sendChecks header headerLen data dataLen alignment s.cfg) = some r) :
    sendSeed header headerLen data dataLen alignment s = s.refuse r := by
  simp only [sendSeed, h]

theorem sendSeed_accepted (h : firstFailing (sendChecks header headerLen data dataLen alignment s.cfg) = none) :
    sendSeed header headerLen data dataLen alignment s =
      withQuad (srcDW header headerLen 4) (srcDW header headerLen 0) s fun hi lo t =>
        emitQuad true false hi lo .sHold { t with work := {} } := by
  simp only [sendSeed, h]

theorem sendHold_eq : sendHold s = { s with qe := 0, fsm := .sBr, trace := s.trace ++ [.busWr .txQueueenable 0] } :=
  onBusWrite_ok (deviceWrite_txQueueenable (.inl rfl))

theorem sendRelease_eq :
    sendRelease s = ({ s with qe := 1 } : State).returned 0x14 .success [.busWr .txQueueenable 1] :=
  onBusWrite_ok (deviceWrite_txQueueenable (.inr rfl))

theorem sendData_of_le {loop : Fsm} (h : dataLen ≤ bi) : sendData d dataLen bi loop s = { s with fsm := .sRel } :=
  if_neg (Nat.not_lt.2 h)

theorem sendData_of_lt {loop : Fsm} (h : bi < dataLen) :
    sendData d dataLen bi loop s =
      withQuad (srcDW d dataLen (bi + 4)) (srcDW d dataLen bi) s fun hi lo t =>
        emitQuad false (decide (bi + 8 ≥ dataLen)) hi lo loop
          { t with work := { t.work with bi := some (bi + 8) } } :=
  if_pos h

end send

/-- Settles O35: the checks in their order; an accepted call emits or faults. -/
theorem sendTlpRefusals : Obligations.SendTlpRefusals := by
  intro s header data headerLen dataLen alignment hf
  have reason := firstFailing_sendChecks (header := header) (data := data) (headerLen := headerLen)
    (dataLen := dataLen) (alignment := alignment) s.cfg
  simp only [exec_send_entry hf]
  split_ifs at reason ⊢
  case neg =>
    rw [sendSeed_accepted reason]
    refine ⟨_, rfl, ?_⟩
    rcases withQuad_cases (srcDW header headerLen 4) (srcDW header headerLen 0) s fun hi lo t =>
        emitQuad true false hi lo .sHold { t with work := {} } with ⟨c, h⟩ | ⟨hi, t, lo, t', hu, hl, h⟩
    · rw [h]; exact ⟨rfl, nofun⟩
    · obtain ⟨_, rfl⟩ := srcDW_ok hu
      obtain ⟨_, rfl⟩ := srcDW_ok hl
      rw [h]; exact ⟨rfl, nofun⟩
  all_goals rw [sendSeed_refused reason]; rfl

/-- Settles O36: the two double-words stand within the shortest header, so nothing is drawn. -/
theorem sendSeedQuadword : Obligations.SendSeedQuadword := by
  intro s header data headerLen dataLen alignment hf hlen hmod hrange halign hbase hdata
  have dataBase : (dataBuffer data).base % 8 = 0 := by
    rcases hdata with ⟨rfl, -⟩ | ⟨d, rfl, hd⟩
    · rfl
    · exact hd
  have accepted : firstFailing (sendChecks header headerLen data dataLen alignment s.cfg) = none := by
    rw [firstFailing_sendChecks]
    grind
  rw [exec_send_entry hf, sendSeed_accepted accepted]
  refine ⟨fun he => ?_, fun he => ?_⟩
  · rw [withQuad_ok (srcDW_inside (by omega) (by omega)) (srcDW_inside (by omega) (by omega))]
    rfl
  · have notOwned : ¬ srcOwned header headerLen 4 := fun h => by
      have := h 3 (by omega) (by omega)
      omega
    obtain ⟨o, herr⟩ := srcDW_not_owned notOwned s
    exact ⟨o, by rw [withQuad_upper_error herr]; rfl⟩

/-- Settles O37: two writes of the gate and the choice between them. -/
theorem sendHoldBranchRelease : Obligations.SendHoldBranchRelease := fun s _ _ _ _ _ =>
  ⟨fun hf => by rw [exec_send_hold hf, sendHold_eq], fun hf => by rw [exec_send_branch hf]; rfl,
    fun hf => by rw [exec_send_release hf, sendRelease_eq]⟩

/-- Settles O38: the two sources owned, or one of them not. -/
theorem sendMergedQuadword : Obligations.SendMergedQuadword := by
  intro s header data headerLen dataLen alignment hf
  rw [exec_send_merged hf, sendMerged]
  refine ⟨fun hu hl => ?_, fun h => ?_⟩
  · obtain ⟨hi, lo, env, hhi, hlo, e⟩ := withQuad_owned (s := s) hu hl
    exact ⟨hi, lo, env, hhi, hlo, by rw [e, emitQuad, bit1_decide]; rfl⟩
  · obtain ⟨b, o, hb, e⟩ := withQuad_not_owned (s := s) h
    exact ⟨b, o, hb, by rw [e]; rfl⟩

/-- Settles O39: both sources in the header. -/
theorem sendGenericQuadword : Obligations.SendGenericQuadword := by
  intro s header data headerLen dataLen alignment hf
  rw [exec_send_generic hf, sendGeneric]
  refine ⟨fun hu hl => ?_, fun h => ?_⟩
  · obtain ⟨hi, lo, env, hhi, hlo, e⟩ := withQuad_owned (s := s) hu hl
    exact ⟨hi, lo, env, hhi, hlo, by rw [e, emitQuad, bit1_decide]; rfl⟩
  · obtain ⟨b, o, hb, e⟩ := withQuad_not_owned (s := s) h
    obtain rfl := or_self_iff.1 hb
    exact ⟨o, by rw [e]; rfl⟩

/-- Settles O40: nothing left, both sources in the data owned, or one of them not. -/
theorem sendDataQuadwords : Obligations.SendDataQuadwords := by
  intro s header data headerLen dataLen alignment bi hf hbi
  rw [exec_send_data hf hbi]
  refine ⟨fun hle => by rw [sendData_of_le hle], fun hlt hu hl => ?_, fun hlt h => ?_⟩
  · obtain ⟨hi, lo, env, hhi, hlo, e⟩ := withQuad_owned (s := s) hu hl
    exact ⟨hi, lo, env, hhi, hlo, by rw [sendData_of_lt hlt, e, emitQuad, bit1_decide]; rfl⟩
  · obtain ⟨b, o, hb, e⟩ := withQuad_not_owned (s := s) h
    obtain rfl := or_self_iff.1 hb
    exact ⟨o, by rw [sendData_of_lt hlt, e]; rfl⟩

/-! ### The loop of `send_tlp_unaligned` -/

section unalignedLoop

variable {s : State} {tlp : Buffer} {tlpLen q n : Nat}

theorem exec_unaligned_loop (hf : s.fsm = .uLoop) (hq : s.work.q = some q) (hn : s.work.n = some n) :
    exec (.callSendTlpUnaligned tlp tlpLen) s = .next (unalignedLoop tlp tlpLen q n s) := by
  simp [exec, execCallSendTlpUnaligned, hf, hq, hn]

theorem unalignedLoop_of_le (h : n ≤ q) : unalignedLoop tlp tlpLen q n s = { s with fsm := .uHook } :=
  if_neg (Nat.not_lt.2 h)

theorem unalignedLoop_of_lt (h : q < n) :
    unalignedLoop tlp tlpLen q n s =
      withQuad (srcDW tlp tlpLen (8 * q)) (unalignedUpper tlp tlpLen q) s fun lo hi t =>
        emitQuad (decide (q = 0)) (decide (q + 1 = n)) hi lo .uLoop
          { t with work := { t.work with q := some (q + 1) } } :=
  if_pos h

/-- The literal pad condition (R239): the upper half is zero and no byte of it is read. -/
theorem unalignedUpper_of_pad (h : tlpLen ≤ q + 1) : unalignedUpper tlp tlpLen q s = .ok (0, s) := if_pos h

theorem unalignedUpper_of_read (h : q + 1 < tlpLen) : unalignedUpper tlp tlpLen q = srcDW tlp tlpLen (8 * q + 4) :=
  funext fun _ => if_neg (Nat.not_le.2 h)

end unalignedLoop

/-- Settles O43: the loop's end, and its quadword with the upper half padded or read. -/
theorem unalignedLoopQuadword : Obligations.UnalignedLoopQuadword := by
  intro s tlp tlpLen q n hf hq hn
  rw [exec_unaligned_loop hf hq hn]
  refine ⟨fun hle => by rw [unalignedLoop_of_le hle], fun hlt hl hu => ?_, fun hlt h => ?_⟩
  · rw [unalignedLoop_of_lt hlt]
    have last : q + 1 = n ↔ q = n - 1 := by omega
    by_cases pad : tlpLen ≤ q + 1
    · obtain ⟨lo, env, hread, hlo⟩ := srcDW_answers (s := s) hl
      refine ⟨0, lo, env, hlo, fun _ => rfl, fun hlt => by omega, ?_⟩
      rw [withQuad_ok hread (unalignedUpper_of_pad pad), emitQuad, bit1_decide, bit1_decide]
      simp only [last]
    · have read : q + 1 < tlpLen := Nat.lt_of_not_le pad
      obtain ⟨lo, hi, env, hlo, hhi, e⟩ := withQuad_owned (s := s) hl (hu read)
      refine ⟨hi, lo, env, hlo, fun hle => absurd hle pad, fun _ => hhi, ?_⟩
      rw [unalignedUpper_of_read read, e, emitQuad, bit1_decide, bit1_decide]
      simp only [last]
  · rw [unalignedLoop_of_lt hlt]
    by_cases pad : tlpLen ≤ q + 1
    · obtain ⟨o, herr⟩ := srcDW_not_owned (fun hl => h ⟨hl, fun hlt => by omega⟩) s
      exact ⟨o, by rw [withQuad_upper_error herr]; rfl⟩
    · have read : q + 1 < tlpLen := Nat.lt_of_not_le pad
      obtain ⟨b, o, hb, e⟩ := withQuad_not_owned (s := s) fun ⟨hl, hu⟩ => h ⟨hl, fun _ => hu⟩
      obtain rfl := or_self_iff.1 hb
      exact ⟨o, by rw [unalignedUpper_of_read read, e]; rfl⟩

end Sys2Proof.Machine
end

section
/-! Whole transmit calls that no link step interrupts: a quadword from the state that emits it to its continuation, the
data loops of both calls, and the statements O41 and O44 that they settle. -/

namespace Sys2Proof.Machine

/-! ### Entries put into TXF -/

section sent

variable {p : Params} {P : Nat → Entry → Prop} {s t u : State} {e : Entry} {es : List Entry} {q Q : Nat}
  {sop eop : BitVec 1} {up lo : Word}

/-- From `s` to `t` the entries `es` have been put into TXF, each by its three writes (R220), and the gate, RXF, memory
and the current operation are as before. -/
structure Sent (es : List Entry) (s t : State) : Prop where
  cfg : t.cfg = s.cfg
  hp : t.hp = s.hp
  qe : t.qe = s.qe
  rxf : t.rxf = s.rxf
  mem : t.mem = s.mem
  txf : t.txf = s.txf ++ es
  trace : t.trace = s.trace ++ es.flatMap quadEvents

theorem Sent.control (s : State) (f : Fsm) (w : Work) : Sent [] s { s with fsm := f, work := w } :=
  ⟨rfl, rfl, rfl, rfl, rfl, (List.append_nil _).symm, (List.append_nil _).symm⟩

theorem Sent.cons (h : Sent [e] s t) (h' : Sent es t u) : Sent (e :: es) s u where
  cfg := h'.cfg.trans h.cfg
  hp := h'.hp.trans h.hp
  qe := h'.qe.trans h.qe
  rxf := h'.rxf.trans h.rxf
  mem := h'.mem.trans h.mem
  txf := by rw [h'.txf, h.txf, List.append_assoc, List.singleton_append]
  trace := by simp [h'.trace, h.trace]

/-- One entry sent leaves the room that was there for it and `k` more. -/
theorem Sent.room {k : Nat} (h : Sent [e] s t) (hroom : s.txf.length + (k + 1) ≤ s.cfg.txDepth) :
    t.txf.length + k ≤ t.cfg.txDepth := by
  rw [h.txf, h.cfg, List.length_append, List.length_singleton]
  omega

/-- Each entry has the property of its place, the places counted from `q`. -/
def AllFrom (P : Nat → Entry → Prop) (q : Nat) (es : List Entry) : Prop :=
  ∀ j (h : j < es.length), P (q + j) es[j]

theorem AllFrom.nil : AllFrom P q [] := fun _ h => absurd h (Nat.not_lt_zero _)

theorem AllFrom.cons (h : P q e) (hs : AllFrom P (q + 1) es) : AllFrom P q (e :: es) := by
  rintro (_ | j) hj
  · exact h
  · have place := hs j (Nat.lt_of_succ_lt_succ hj)
    rw [Nat.add_right_comm] at place
    exact place

/-- The framing of entry `j` of a burst of `Q` (R235, R241 (f)). -/
def FramedAt (p : Params) (Q j : Nat) (e : Entry) : Prop :=
  e.st = txStatusWord p (bit1 (decide (j = 0))) (bit1 (decide (j + 1 = Q)))

theorem framedAt_of_bits (hsop : sop = if q = 0 then 1 else 0) (heop : eop = if q + 1 = Q then 1 else 0) :
    FramedAt p Q q ⟨txStatusWord p sop eop, up, lo⟩ := by
  rw [FramedAt, bit1_decide, bit1_decide, hsop, heop]

theorem framedBurst_of_framedAt (h : AllFrom (FramedAt p Q) 0 es) (hQ : es.length = Q) : framedBurst p es := by
  intro j hj
  have framed := h j hj
  rwa [Nat.zero_add, FramedAt, ← hQ] at framed

end sent

/-! ### One quadword, from the state that emits it to its continuation -/

section quadword

variable {s : State} {i : Instr} {env : Env} {w : Work} {kont : Fsm} {qs qe : BitVec 1} {qu ql : Word}

/-- The state that emits a quadword and the three writes, up to the continuation (R220). -/
theorem runsWithin_quadword (hi : Instr.Transmits i)
    (he : exec i s = .next { s with env := env, fsm := .qSt, work := w }) (hqs : w.qs = some qs)
    (hqe : w.qe = some qe) (hqu : w.qu = some qu) (hql : w.ql = some ql) (hk : w.kont = some kont)
    (hm : kont ∈ statesOf i) (hroom : s.txf.length < s.cfg.txDepth) :
    ∃ t, RunsWithin i 4 s t ∧ t.fsm = kont ∧ t.work = w ∧ Sent [⟨txStatusWord s.cfg qs qe, qu, ql⟩] s t := by
  obtain ⟨emits, -⟩ := Instr.Transmits.emission_mem hi
  have emission : RunsWithin i 3 { s with env := env, fsm := .qSt, work := w } _ := fun hs =>
    ⟨quadEmissionPushesOneEntry _ i qs qe qu ql kont hi hs rfl hqs hqe hqu hql hk hroom, fetch_congr hs rfl rfl hm⟩
  exact ⟨_, .trans (.step he rfl rfl emits) emission, rfl, rfl, rfl, rfl, rfl, rfl, rfl, rfl, by simp [txStatusWord]⟩

end quadword

theorem srcOwned_of_le {b : Buffer} {len : Nat} (h : len ≤ b.extent) (o : Nat) : srcOwned b len o :=
  fun _ _ hl => Nat.lt_of_lt_of_le hl h

/-! ### A whole `send_tlp` -/

/-- The state at `f` after the hold (R227). -/
def State.held (f : Fsm) (s : State) : State :=
  { s with qe := 0, fsm := f, trace := s.trace ++ [.busWr .txQueueenable 0] }

section send

variable {s : State} {header : Buffer} {data : Option Buffer} {headerLen dataLen alignment bi j q Q : Nat}

/-- The data loop: the `j` quadwords that are left at `bi`, places `q` up to the last of the burst, then the step to the
release (R230, R232). -/
theorem runsWithin_sendData (hdata : dataLen ≤ (dataBuffer data).extent) (hf : s.fsm = .sUl ∨ s.fsm = .sAl)
    (hbi : s.work.bi = some bi) (hj : (dataLen - bi + 7) / 8 = j) (hroom : s.txf.length + j ≤ s.cfg.txDepth)
    (hq : q ≠ 0) (hQ : q + j = Q) :
    ∃ es t, RunsWithin (.callSendTlp header headerLen data dataLen alignment) (4 * j + 1) s t ∧ t.fsm = .sRel ∧
      es.length = j ∧ AllFrom (FramedAt s.cfg Q) q es ∧ Sent es s t := by
  induction j generalizing s bi q with
  | zero =>
    obtain ⟨stop, -, -⟩ := sendDataQuadwords s header data headerLen dataLen alignment bi hf hbi
    exact ⟨[], _, .step (stop (by omega)) rfl rfl (by simp [statesOf]), rfl, rfl, .nil, .control s .sRel s.work⟩
  | succ j ih =>
    obtain ⟨-, emit, -⟩ := sendDataQuadwords s header data headerLen dataLen alignment bi hf hbi
    obtain ⟨hi, lo, env, -, -, he⟩ := emit (by omega) (srcOwned_of_le hdata _) (srcOwned_of_le hdata _)
    obtain ⟨t, first, htf, htw, hsent⟩ := runsWithin_quadword transmits_sendTlp he rfl rfl rfl rfl rfl
      (by rcases hf with hf | hf <;> simp [hf, statesOf]) (by omega)
    obtain ⟨es, u, hrun, hu, hlen, hframed, hsent'⟩ := ih (s := t) (bi := bi + 8) (q := q + 1) (htf ▸ hf)
      (by rw [htw]) (by omega) (hsent.room (by omega)) (by omega) (by omega)
    rw [hsent.cfg] at hframed
    refine ⟨_ :: es, u, ?_, hu, congrArg _ hlen, .cons (framedAt_of_bits (if_neg hq).symm ?_) hframed,
      .cons hsent hsent'⟩
    · rw [show 4 * (j + 1) + 1 = 4 + (4 * j + 1) by omega]
      exact first.trans hrun
    · exact if_congr (by omega) rfl rfl

/-- The hold, then the branch (R227, R228). -/
theorem runsWithin_sendHoldBranch (hf : s.fsm = .sHold) :
    RunsWithin (.callSendTlp header headerLen data dataLen alignment) 2 s
      (s.held (if headerLen = 12 ∧ alignment = s.cfg.unalignedCode then .sM else .sG)) := by
  have hold := (exec_send_hold (header := header) (headerLen := headerLen) (data := data) (dataLen := dataLen)
    (alignment := alignment) hf).trans (congrArg _ sendHold_eq)
  refine .trans (.step hold rfl rfl (by simp [statesOf])) (.step (exec_send_branch rfl) rfl rfl ?_)
  rw [sendBranch, goto_fsm]
  split <;> simp [statesOf]

/-- The second quadword of either branch; its state leaves as many quadwords for the data loop as the call's count says
(R229, R231, R234). -/
theorem runsWithin_sendSecond (hheader : headerLen ≤ header.extent) (hdata : dataLen ≤ (dataBuffer data).extent)
    (hf : s.fsm = if headerLen = 12 ∧ alignment = s.cfg.unalignedCode then .sM else .sG)
    (hQ : Q = sendCount (decide (headerLen = 12 ∧ alignment = s.cfg.unalignedCode)) dataLen)
    (hroom : s.txf.length < s.cfg.txDepth) :
    ∃ e bi t, RunsWithin (.callSendTlp header headerLen data dataLen alignment) 4 s t ∧
      (t.fsm = .sUl ∨ t.fsm = .sAl) ∧ t.work.bi = some bi ∧ 2 + (dataLen - bi + 7) / 8 = Q ∧
      FramedAt s.cfg Q 1 e ∧ Sent [e] s t := by
  by_cases merged : headerLen = 12 ∧ alignment = s.cfg.unalignedCode
  · simp only [merged, and_self, decide_true, sendCount, if_true] at hf hQ
    obtain ⟨emit, -⟩ := sendMergedQuadword s header data headerLen dataLen alignment hf
    obtain ⟨hi, lo, env, -, -, he⟩ := emit (srcOwned_of_le hheader _) (srcOwned_of_le hdata _)
    obtain ⟨t, hrun, htf, htw, hsent⟩ := runsWithin_quadword transmits_sendTlp he rfl rfl rfl rfl rfl
      (by simp [statesOf]) hroom
    exact ⟨_, 4, t, hrun, .inl htf, by rw [htw], hQ.symm, framedAt_of_bits rfl (if_congr (by omega) rfl rfl), hsent⟩
  · simp only [merged, decide_false, sendCount, if_false, Bool.false_eq_true] at hf hQ
    obtain ⟨emit, -⟩ := sendGenericQuadword s header data headerLen dataLen alignment hf
    obtain ⟨hi, lo, env, -, -, he⟩ := emit (srcOwned_of_le hheader _) (srcOwned_of_le hheader _)
    obtain ⟨t, hrun, htf, htw, hsent⟩ := runsWithin_quadword transmits_sendTlp he rfl rfl rfl rfl rfl
      (by simp [statesOf]) hroom
    exact ⟨_, 0, t, hrun, .inr htf, by rw [htw], hQ.symm, framedAt_of_bits rfl (if_congr (by omega) rfl rfl), hsent⟩

theorem two_le_sendCount (merged : Bool) (dataLen : Nat) : 2 ≤ sendCount merged dataLen := by
  unfold sendCount
  split <;> exact Nat.le_add_right 2 _

/-- Every quadword after the hold, up to the release. -/
theorem runsWithin_sendOthers (hheader : headerLen ≤ header.extent) (hdata : dataLen ≤ (dataBuffer data).extent)
    (hf : s.fsm = if headerLen = 12 ∧ alignment = s.cfg.unalignedCode then .sM else .sG)
    (hQ : Q = sendCount (decide (headerLen = 12 ∧ alignment = s.cfg.unalignedCode)) dataLen)
    (hroom : s.txf.length + (Q - 1) ≤ s.cfg.txDepth) :
    ∃ es t, RunsWithin (.callSendTlp header headerLen data dataLen alignment) (4 * (Q - 1) + 1) s t ∧
      t.fsm = .sRel ∧ es.length + 1 = Q ∧ AllFrom (FramedAt s.cfg Q) 1 es ∧ Sent es s t := by
  have two_le : 2 ≤ Q := hQ ▸ two_le_sendCount _ _
  obtain ⟨e, bi, t, second, htf, hbi, hcount, hframed, hsent⟩ := runsWithin_sendSecond hheader hdata hf hQ (by omega)
  obtain ⟨es, u, loop, huf, hlen, hframed', hsent'⟩ := runsWithin_sendData (q := 2) hdata htf hbi rfl
    (hsent.room (by omega)) (by omega) hcount
  refine ⟨e :: es, u, ?_, huf, by rw [List.length_cons]; omega, .cons hframed (hsent.cfg ▸ hframed'), hsent.cons hsent'⟩
  rw [show 4 * (Q - 1) + 1 = 4 + (4 * ((dataLen - bi + 7) / 8) + 1) by omega]
  exact second.trans loop

end send

/-- Settles O41: the seed quadword, the hold and the branch; the other quadwords; the release. -/
theorem sendTlpBurst : Obligations.SendTlpBurst := by
  intro s header data headerLen dataLen alignment Q hf hs hlen hmod hrange halign hbase hheader hdata hQ hroom
  have dataOwned : dataLen ≤ (dataBuffer data).extent := by
    rcases hdata with ⟨rfl, rfl⟩ | ⟨d, rfl, -, hd⟩
    · exact Nat.le_refl 0
    · exact hd
  have two_le : 2 ≤ Q := hQ ▸ two_le_sendCount _ _
  have headerOwned : 8 ≤ header.extent := by
    rcases hlen with rfl | rfl <;> exact Nat.le_trans (by decide) hheader
  obtain ⟨seed, -⟩ := sendSeedQuadword s header data headerLen dataLen alignment (.inl hf) hlen hmod hrange halign
    hbase (hdata.imp_right fun ⟨d, hd, hb, _⟩ => ⟨d, hd, hb⟩)
  obtain ⟨t, first, htf, -, hsent⟩ := runsWithin_quadword transmits_sendTlp (seed headerOwned) rfl rfl rfl
    rfl rfl (by simp [statesOf]) (by omega)
  have held := first.trans (runsWithin_sendHoldBranch htf)
  generalize hbranch : (if headerLen = 12 ∧ alignment = t.cfg.unalignedCode then Fsm.sM else Fsm.sG) = f at held
  obtain ⟨es, u, rest, huf, count, hframed, hsent'⟩ := runsWithin_sendOthers (s := t.held f) hheader dataOwned
    hbranch.symm (hsent.cfg ▸ hQ) (hsent.room (by omega))
  replace hframed : AllFrom (FramedAt s.cfg Q) 1 es := hsent.cfg ▸ hframed
  have framed : FramedAt s.cfg Q 0 ⟨txStatusWord s.cfg 1 0, wordAt s.mem (header.base + 4), wordAt s.mem header.base⟩ :=
    framedAt_of_bits rfl (if_neg (by omega)).symm
  have run := (held.trans rest).last hs ((exec_send_release huf).trans (congrArg _ sendRelease_eq))
  rw [show 4 + 2 + (4 * (Q - 1) + 1) + 1 = 4 * Q + 4 by omega] at run
  refine ⟨_, _, es, run, count, framedBurst_of_framedAt (.cons framed hframed) count, ?_, rfl, ?_, rfl, rfl, ?_, ?_, ?_⟩
  · simp [hsent'.txf, State.held, hsent.txf]
  · simp [hsent'.hp, State.held, hsent.hp]
  · simp [hsent'.rxf, State.held, hsent.rxf]
  · simp [hsent'.mem, State.held, hsent.mem]
  · simp [hsent'.trace, State.held, hsent.trace]

/-! ### A whole `send_tlp_unaligned` -/

section unaligned

variable {s : State} {tlp : Buffer} {tlpLen j q n : Nat} {es : List Entry}

/-- Entry `q` of an unaligned burst of `n` (R239): its framing, the two double-words of the buffer at `8 q`, and the
zero upper half under the pad condition. -/
structure UnalignedAt (p : Params) (m : Memory) (tlp : Buffer) (tlpLen n q : Nat) (e : Entry) : Prop where
  framed : FramedAt p n q e
  lower : srcMatches m tlp tlpLen (8 * q) e.lo
  upper : srcMatches m tlp tlpLen (8 * q + 4) e.up
  pad : tlpLen ≤ q + 1 → e.up = 0

/-- One quadword of the loop, back to it (R239). -/
theorem runsWithin_unalignedQuadword (howned : tlpLen ≤ tlp.extent) (hf : s.fsm = .uLoop) (hq : s.work.q = some q)
    (hn : s.work.n = some n) (hlt : q < n) (hroom : s.txf.length < s.cfg.txDepth) :
    ∃ e t, RunsWithin (.callSendTlpUnaligned tlp tlpLen) 4 s t ∧ t.fsm = .uLoop ∧ t.work.q = some (q + 1) ∧
      t.work.n = some n ∧ UnalignedAt s.cfg s.mem tlp tlpLen n q e ∧ Sent [e] s t := by
  obtain ⟨-, emit, -⟩ := unalignedLoopQuadword s tlp tlpLen q n hf hq hn
  obtain ⟨hi, lo, env, hlo, hpad, hhi, he⟩ := emit hlt (srcOwned_of_le howned _) fun _ => srcOwned_of_le howned _
  obtain ⟨t, hrun, htf, htw, hsent⟩ := runsWithin_quadword transmits_sendTlpUnaligned he rfl rfl rfl rfl rfl
    (by simp [statesOf]) hroom
  have upper : srcMatches s.mem tlp tlpLen (8 * q + 4) hi := fun i hi' hl => hhi (by omega) i hi' hl
  exact ⟨_, t, hrun, htf, by rw [htw], by rw [htw]; exact hn,
    ⟨framedAt_of_bits rfl (if_congr (by omega) rfl rfl), hlo, upper, hpad⟩, hsent⟩

/-- The loop: the quadwords from `q` on, then the step to the hook (R239). -/
theorem runsWithin_unalignedLoop (howned : tlpLen ≤ tlp.extent) (hf : s.fsm = .uLoop) (hq : s.work.q = some q)
    (hn : s.work.n = some n) (hj : q + j = n) (hroom : s.txf.length + j ≤ s.cfg.txDepth) :
    ∃ es t, RunsWithin (.callSendTlpUnaligned tlp tlpLen) (4 * j + 1) s t ∧ t.fsm = .uHook ∧ es.length = j ∧
      AllFrom (UnalignedAt s.cfg s.mem tlp tlpLen n) q es ∧ Sent es s t := by
  induction j generalizing s q with
  | zero =>
    obtain ⟨stop, -, -⟩ := unalignedLoopQuadword s tlp tlpLen q n hf hq hn
    exact ⟨[], _, .step (stop (by omega)) rfl rfl (by simp [statesOf]), rfl, rfl, .nil, .control s .uHook s.work⟩
  | succ j ih =>
    obtain ⟨e, t, first, htf, htq, htn, he, hsent⟩ := runsWithin_unalignedQuadword howned hf hq hn (by omega) (by omega)
    obtain ⟨es, u, loop, huf, hlen, hes, hsent'⟩ := ih htf htq htn (by omega) (hsent.room (by omega))
    rw [hsent.cfg, hsent.mem] at hes
    refine ⟨e :: es, u, ?_, huf, congrArg _ hlen, .cons he hes, hsent.cons hsent'⟩
    rw [show 4 * (j + 1) + 1 = 4 + (4 * j + 1) by omega]
    exact first.trans loop

/-- The bytes of a burst that covers the stated length are the buffer's, the lower half first (R72, R73). -/
theorem payloadByte_of_unalignedAt {p : Params} {m : Memory} (h : AllFrom (UnalignedAt p m tlp tlpLen n) 0 es)
    (hlen : tlpLen ≤ 8 * es.length) {o : Nat} (ho : o < tlpLen) : payloadByte es o = m.read (tlp.base + o) := by
  have index : o / 8 < es.length := by omega
  obtain ⟨-, lower, upper, -⟩ := h (o / 8) index
  rw [Nat.zero_add] at lower upper
  rw [payloadByte, List.getElem?_eq_getElem index]
  dsimp only
  split
  next hi =>
    rw [lower (o % 8) hi (by omega)]
    congr 1
    omega
  next hi =>
    rw [upper (o % 8 - 4) (by omega) (by omega)]
    congr 1
    omega

end unaligned

/-- Settles O44: the entry, the loop from its first quadword, and the hook. -/
theorem unalignedBurst : Obligations.UnalignedBurst := by
  intro s tlp tlpLen n hf hs hrange hbase howned hn hroom
  have init := (exec_unaligned_entry (.inl hf)).trans (congrArg _ (unalignedInit_accepted hrange hbase))
  rw [← hn] at init
  obtain ⟨es, t, loop, htf, hlen, hes, hsent⟩ := runsWithin_unalignedLoop
    (s := { s with work := { n := some n, q := some 0 }, fsm := .uLoop }) howned rfl rfl rfl (Nat.zero_add n) hroom
  have run := ((RunsWithin.step init rfl rfl (by simp [statesOf])).trans loop).last hs
    ((exec_unaligned_hook htf).trans (congrArg _ unalignedHook_eq))
  rw [show 1 + (4 * n + 1) + 1 = 4 * n + 3 by omega] at run
  refine ⟨_, es, run, hlen, framedBurst_of_framedAt (fun j hj => (hes j hj).framed) hlen, hsent.txf,
    fun o => payloadByte_of_unalignedAt hes (by omega), fun hone e he => ?_, rfl, congrArg (· + 1) hsent.hp, rfl,
    hsent.qe, hsent.rxf, hsent.mem, ?_⟩
  · obtain ⟨j, hj, rfl⟩ := List.getElem_of_mem he
    exact (hes j hj).pad (by omega)
  · simp [hsent.trace]

end Sys2Proof.Machine
end

section
/-! The timestamp hook's event (R222, R240): every state function but `U_HOOK` leaves the number of `HookTs` events as
it was, and the statement O58 that they settle. -/

namespace Sys2Proof.Machine

/-- The number of `HookTs` events so far. -/
def State.hooks (s : State) : Nat := s.trace.count .hookTs

/-- Where the outcome is a next state, it holds `k` hook events. -/
def HooksAre (k : Nat) (o : StepOutcome) : Prop := ∀ t, o = .next t → t.hooks = k

section hooks

variable {k : Nat} {s t : State}

theorem hooks_of_event {e : Event} (h : t.trace = s.trace ++ [e]) (he : e ≠ .hookTs) : t.hooks = s.hooks := by
  rw [State.hooks, h, List.count_append, List.count_singleton, if_neg (by simpa using he), Nat.add_zero, State.hooks]

@[simp] theorem goto_hooks (f : Fsm) : (s.goto f).hooks = s.hooks := rfl

@[simp] theorem raise_hooks (c : FaultCode) : (s.raise c).hooks = s.hooks := rfl

@[simp] theorem refuse_hooks (r : RefuseReason) : (s.refuse r).hooks = s.hooks := rfl

@[simp] theorem finish_hooks (op : BitVec 8) (v : Result) : (s.finish op v).hooks = s.hooks :=
  hooks_of_event rfl (by simp)

@[simp] theorem hooksAre_next : HooksAre k (.next t) ↔ t.hooks = k :=
  ⟨fun h => h t rfl, fun h _ e => by cases e; exact h⟩

@[simp] theorem hooksAre_fault (f : Fault) : HooksAre k (.fault f) := fun _ h => by cases h

@[simp] theorem hooksAre_readWork {α : Type} (o : Option α) (f : α → StepOutcome) :
    HooksAre k (readWork o f) ↔ ∀ a, o = some a → HooksAre k (f a) := by
  cases o <;> simp

theorem hooksAre_atEntry {entry : Fsm} (h : t.hooks = k) : HooksAre k (atEntry entry s t) := by
  intro t' ht
  rw [(atEntry_next ht).2, h]

theorem onBusRead_hooks {r : Reg} {rest : Word → State → State} (h : ∀ v t, (rest v t).hooks = t.hooks) :
    (onBusRead r s rest).hooks = s.hooks := by
  rcases onBusRead_cases r s rest with ⟨c, -, e⟩ | ⟨v, t, hd, e⟩
  · rw [e, raise_hooks]
  · obtain ⟨rxf, rfl⟩ := deviceRead_eq hd
    rw [e, h]
    exact hooks_of_event rfl (by simp)

theorem onBusWrite_hooks {r : Reg} {v : Word} {rest : State → State} (h : ∀ t, (rest t).hooks = t.hooks) :
    (onBusWrite r v s rest).hooks = s.hooks := by
  rcases onBusWrite_cases r v s rest with ⟨c, -, e⟩ | ⟨t, hd, e⟩
  · rw [e, raise_hooks]
  · obtain ⟨_, _, _, _, rfl⟩ := deviceWrite_eq hd
    rw [e, h]
    exact hooks_of_event rfl (by simp)

theorem withQuad_hooks {upper lower : State → Except FaultCode (Word × State)} {rest : Word → Word → State → State}
    (hu : ∀ a v b, upper a = .ok (v, b) → ∃ env, b = { a with env := env })
    (hl : ∀ a v b, lower a = .ok (v, b) → ∃ env, b = { a with env := env })
    (h : ∀ hi lo t, (rest hi lo t).hooks = t.hooks) : (withQuad upper lower s rest).hooks = s.hooks := by
  rcases withQuad_cases upper lower s rest with ⟨c, e⟩ | ⟨hi, t, lo, t', e1, e2, e⟩
  · rw [e, raise_hooks]
  · obtain ⟨n, rfl⟩ := hu _ _ _ e1
    obtain ⟨n', rfl⟩ := hl _ _ _ e2
    rw [e, h]
    rfl

theorem rawRead_hooks (r : Reg) : HooksAre s.hooks (rawRead r s) :=
  hooksAre_atEntry (onBusRead_hooks fun _ _ => finish_hooks _ _)

theorem rawWrite_hooks (r : Reg) (v : Word) : HooksAre s.hooks (rawWrite r v s) :=
  hooksAre_atEntry (onBusWrite_hooks fun _ => finish_hooks _ _)

theorem mask_hooks (w : Precision) (width : Nat) : HooksAre s.hooks (execCallMask w width s) :=
  hooksAre_atEntry (by unfold maskExec; split <;> simp)

theorem maskEnableBits_hooks (w : Precision) (high low : Nat) :
    HooksAre s.hooks (execCallMaskEnableBits w high low s) :=
  hooksAre_atEntry (by unfold maskEnableExec; split <;> simp)

theorem closeConnections_hooks : HooksAre s.hooks (execCallCloseConnections s) := hooksAre_atEntry (finish_hooks _ _)

/-! ### The receive path -/

@[simp] theorem waitInit_hooks (b : Buffer) (cap : Nat) : (waitInit b cap s).hooks = s.hooks := by
  unfold waitInit
  split <;> rfl

@[simp] theorem waitDeadline_hooks (deadline : Nat) (next : Fsm) : (waitDeadline deadline next s).hooks = s.hooks := by
  obtain ⟨c, env, hread, -⟩ := readCounter_spec s
  have counted : s.readCounter.2.hooks = s.hooks := by
    rw [hread]
    exact hooks_of_event rfl (by simp)
  obtain ⟨past, env', hpast, -⟩ := past_spec s.readCounter.2 s.readCounter.1 deadline
  simp only [waitDeadline, hpast]
  cases past
  · exact counted
  · exact (finish_hooks _ _).trans counted

@[simp] theorem waitAppend_hooks (b : Buffer) (cursor : Nat) (st up lo : Word) :
    (waitAppend b cursor st up lo s).hooks = s.hooks := by
  unfold waitAppend
  dsimp only
  split
  · rfl
  · split <;> rfl

@[simp] theorem waitOverflow_hooks (cap cursor : Nat) : (waitOverflow cap cursor s).hooks = s.hooks := by
  unfold waitOverflow
  split
  · exact (finish_hooks _ _).trans (hooks_of_event rfl (by simp))
  · rfl

@[simp] theorem waitEop_hooks (cursor : Nat) (st : Word) : (waitEop cursor st s).hooks = s.hooks := by
  unfold waitEop
  split
  · exact finish_hooks _ _
  · rfl

theorem waitForTlp_hooks (b : Buffer) (cap deadline : Nat) :
    HooksAre s.hooks (execCallWaitForTlp b cap deadline s) := by
  unfold execCallWaitForTlp
  split
  case h_4 | h_5 | h_6 | h_7 => exact hooksAre_next.2 (onBusRead_hooks fun _ _ => rfl)
  all_goals simp

@[simp] theorem drainReady_hooks : (drainReady s).hooks = s.hooks :=
  onBusRead_hooks fun v t => by split <;> simp

@[simp] theorem drainSpin_hooks (k : Nat) : (drainSpin k s).hooks = s.hooks := by
  unfold drainSpin
  split <;> rfl

theorem drain_hooks : HooksAre s.hooks (execCallDrainPcieCore s) := by
  unfold execCallDrainPcieCore
  split
  case h_1 => exact hooksAre_next.2 drainReady_hooks
  case h_3 | h_4 | h_5 => exact hooksAre_next.2 (onBusRead_hooks fun _ _ => rfl)
  all_goals simp

/-! ### The transmit path -/

theorem withQuad_srcDW_hooks {b b' : Buffer} {len len' o o' : Nat} {rest : Word → Word → State → State}
    (h : ∀ hi lo t, (rest hi lo t).hooks = t.hooks) :
    (withQuad (srcDW b len o) (srcDW b' len' o') s rest).hooks = s.hooks :=
  withQuad_hooks (fun _ _ _ => srcDW_ok) (fun _ _ _ => srcDW_ok) h

@[simp] theorem quadStatus_hooks (qs qe : BitVec 1) : (quadStatus qs qe s).hooks = s.hooks :=
  onBusWrite_hooks fun _ => rfl

@[simp] theorem quadUpper_hooks (qu : Word) : (quadUpper qu s).hooks = s.hooks := onBusWrite_hooks fun _ => rfl

@[simp] theorem quadLower_hooks (ql : Word) (kont : Fsm) : (quadLower ql kont s).hooks = s.hooks :=
  onBusWrite_hooks fun _ => rfl

@[simp] theorem sendSeed_hooks (header : Buffer) (headerLen : Nat) (data : Option Buffer) (dataLen alignment : Nat) :
    (sendSeed header headerLen data dataLen alignment s).hooks = s.hooks := by
  unfold sendSeed
  split
  · rfl
  · exact withQuad_srcDW_hooks fun _ _ _ => rfl

@[simp] theorem sendData_hooks (data : Buffer) (dataLen bi : Nat) (loop : Fsm) :
    (sendData data dataLen bi loop s).hooks = s.hooks := by
  unfold sendData
  split
  · exact withQuad_srcDW_hooks fun _ _ _ => rfl
  · rfl

theorem sendTlp_hooks (header : Buffer) (headerLen : Nat) (data : Option Buffer) (dataLen alignment : Nat) :
    HooksAre s.hooks (execCallSendTlp header headerLen data dataLen alignment s) := by
  unfold execCallSendTlp
  split
  case h_6 => exact hooksAre_next.2 (onBusWrite_hooks fun _ => rfl)
  case h_8 | h_10 => exact hooksAre_next.2 (withQuad_srcDW_hooks fun _ _ _ => rfl)
  case h_12 => exact hooksAre_next.2 (onBusWrite_hooks fun _ => finish_hooks _ _)
  all_goals simp [sendBranch]

@[simp] theorem unalignedInit_hooks (tlp : Buffer) (tlpLen : Nat) : (unalignedInit tlp tlpLen s).hooks = s.hooks := by
  unfold unalignedInit
  split <;> rfl

@[simp] theorem unalignedLoop_hooks (tlp : Buffer) (tlpLen q n : Nat) :
    (unalignedLoop tlp tlpLen q n s).hooks = s.hooks := by
  unfold unalignedLoop
  split
  · exact withQuad_hooks (fun _ _ _ => srcDW_ok) (fun _ _ _ => unalignedUpper_ok) fun _ _ _ => rfl
  · rfl

/-- `send_tlp_unaligned` runs the hook at `U_HOOK` alone (R240). -/
theorem sendTlpUnaligned_hooks (tlp : Buffer) (tlpLen : Nat) (hf : s.fsm ≠ .uHook) :
    HooksAre s.hooks (execCallSendTlpUnaligned tlp tlpLen s) := by
  unfold execCallSendTlpUnaligned
  split
  case h_7 h => exact absurd h hf
  all_goals simp

/-! ### Every operation -/

/-- Every framer step but the one at `U_HOOK` of `send_tlp_unaligned` leaves the number of hook events as it was. -/
theorem exec_hooks (i : Instr) (h : (∃ tlp tlpLen, i = .callSendTlpUnaligned tlp tlpLen) → s.fsm ≠ .uHook) :
    HooksAre s.hooks (exec i s) := by
  cases i with
  | callMask w width => exact mask_hooks w width
  | callMaskEnableBits w high low => exact maskEnableBits_hooks w high low
  | callWaitForTlp b cap deadline => exact waitForTlp_hooks b cap deadline
  | callDrainPcieCore => exact drain_hooks
  | callSendTlp header headerLen data dataLen alignment =>
    exact sendTlp_hooks header headerLen data dataLen alignment
  | callSendTlpUnaligned tlp tlpLen => exact sendTlpUnaligned_hooks tlp tlpLen (h ⟨tlp, tlpLen, rfl⟩)
  | callCloseConnections => exact closeConnections_hooks
  | rdRxReady | rdRxStatus | rdRxUpper32 | rdRxLower32deq => exact rawRead_hooks _
  | rdTxStatus | rdTxUpper32 | rdTxLower32send | rdTxQueueenable => exact rawRead_hooks _
  | wrRxReady v | wrRxStatus v | wrRxUpper32 v | wrRxLower32deq v => exact rawWrite_hooks _ v
  | wrTxStatus v | wrTxUpper32 v | wrTxLower32send v | wrTxQueueenable v => exact rawWrite_hooks _ v

end hooks

/-- Settles O58: at `U_HOOK` the hook's own step; elsewhere the events appended count no hook. -/
theorem hookOnlyAtEndOfUnaligned : Obligations.HookOnlyAtEndOfUnaligned := by
  intro i s t h
  by_cases hook : (∃ tlp tlpLen, i = .callSendTlpUnaligned tlp tlpLen) ∧ s.fsm = .uHook
  · obtain ⟨⟨tlp, tlpLen, rfl⟩, hf⟩ := hook
    cases ((exec_unaligned_hook hf).trans (congrArg _ unalignedHook_eq)).symm.trans h
    exact .inr ⟨tlp, tlpLen, rfl, hf, List.append_assoc ..⟩
  · obtain ⟨es, hes⟩ := (exec_frame h).trace
    have count := exec_hooks i (not_and.1 hook) t h
    rw [State.hooks, hes, List.count_append, State.hooks] at count
    exact .inl ⟨es, hes, List.count_eq_zero.1 (by omega)⟩

end Sys2Proof.Machine
end

section
/-! The lifecycle procedure (44_lifecycle.md): its one framer step, and the statement O45 that it settles. -/

namespace Sys2Proof.Machine

/-- `close_connections` has no check and no access: from its entry it goes straight to its return. -/
theorem exec_callCloseConnections {s : State} (he : s.fsm = .idle ∨ s.fsm = .ccExec) :
    exec .callCloseConnections s = .next (s.finish codeCloseConnections .unit) :=
  atEntry_of he

/-- Settles O45: the return is the call's whole step, and its own event the only one. -/
theorem closeConnectionsReturns : Obligations.CloseConnectionsReturns := by
  intro s he
  calc exec .callCloseConnections s
      = .next (s.finish codeCloseConnections .unit) := exec_callCloseConnections he
    _ = .next (s.returned 0x16 .unit []) := congrArg _ (finish_eq_returned_nil _ _)

end Sys2Proof.Machine
end

section
/-! The counter over one read and over every step (R296), the runs of a `wait_for_tlp` call under a fair counter (R271,
R332), and the statements O22 and O59 that they settle. -/

namespace Sys2Proof.Machine

/-! ### The counter -/

/-- Every value that is not below the last can be read (R296): the counter moved by their difference. -/
theorem readCounter_reaches {s : State} {c : Nat} (h : ∀ l, s.cntLast = some l → l ≤ c) :
    ∃ env, ({ s with env := env } : State).readCounter.1 = c := by
  have last : s.cntLast.getD 0 ≤ c := by
    cases hl : s.cntLast with
    | none => exact Nat.zero_le c
    | some l => exact h l hl
  exact ⟨{ ticks := [c - s.cntLast.getD 0] }, Nat.add_sub_cancel' last⟩

theorem le_readCounter (s : State) : ∀ l, s.cntLast = some l → l ≤ s.readCounter.1 := by
  obtain ⟨c, env, hread, hlast⟩ := readCounter_spec s
  rw [hread]
  exact hlast

/-! ### The turns of the links -/

/-- From `s` to `t` the trace grows by events that are no counter reads. -/
def Unread (s t : State) : Prop := ∃ es, t.trace = s.trace ++ es ∧ ∀ c, Event.cntRd c ∉ es

theorem Unread.refl (s : State) : Unread s s := ⟨[], by simp⟩

/-- What a link's turn leaves of the framer: its position, its program and its counter, which it does not read. -/
structure LinkTurn (s t : State) : Prop where
  fsm : t.fsm = s.fsm
  hp : t.hp = s.hp
  program : t.program = s.program
  counter : t.cntLast = s.cntLast
  unread : Unread s t

section links

variable {s : State}

theorem LinkTurn.refl (s : State) : LinkTurn s s := ⟨rfl, rfl, rfl, rfl, .refl s⟩

theorem LinkTurn.rxLinkStep : LinkTurn s (rxLinkStep s) := by
  rcases rxLinkStep_cases s with h | ⟨_, _, _, -, h, -⟩ <;> rw [h]
  · exact .refl s
  · exact ⟨rfl, rfl, rfl, rfl, _, rfl, by simp⟩

theorem LinkTurn.txLinkStep : LinkTurn s (txLinkStep s) := by
  rcases txLinkStep_cases s with h | ⟨_, _, -, -, ⟨-, h⟩ | ⟨-, -, h⟩⟩ <;> rw [h]
  · exact .refl s
  · exact ⟨rfl, rfl, rfl, rfl, _, rfl, by simp⟩
  · exact ⟨rfl, rfl, rfl, rfl, _, List.append_assoc .., by simp⟩

end links

/-- A step is the framer's turn, or a link's turn, which leaves the framer alone. -/
theorem step_framer_or_link {s t : State} (h : step s = .next t) :
    (s.nextTurn.1 = .framer ∧ framerStep s.nextTurn.2 = .next t) ∨
      (s.nextTurn.1 ≠ .framer ∧ LinkTurn s.nextTurn.2 t) := by
  rcases step_cases h with hframer | ⟨hturn, rfl⟩ | ⟨hturn, rfl⟩
  · exact .inl hframer
  · exact .inr ⟨by simp [hturn], .rxLinkStep⟩
  · exact .inr ⟨by simp [hturn], .txLinkStep⟩

/-- A step leaves the program as it is (R34), and the last counter value does not fall (R296). -/
theorem step_program_cntLast {s t : State} (h : step s = .next t) :
    t.program = s.program ∧ ∀ l, s.cntLast = some l → ∃ l', t.cntLast = some l' ∧ l ≤ l' := by
  rcases step_framer_or_link h with ⟨-, hframer⟩ | ⟨-, link⟩
  · rcases framerStep_next hframer with ⟨-, rfl⟩ | ⟨_, -, rfl⟩ | ⟨i, -, he⟩
    · exact ⟨rfl, fun l hl => ⟨l, hl, le_rfl⟩⟩
    · exact ⟨rfl, fun l hl => ⟨l, hl, le_rfl⟩⟩
    · exact ⟨(exec_frame he).program, (exec_frame he).counter⟩
  · exact ⟨link.program, fun l hl => ⟨l, link.counter.trans hl, le_rfl⟩⟩

/-- Settles O22: a read's own equations, the tick that reaches a value, and the frame of each agent's turn. -/
theorem counterReadsMonotone : Obligations.CounterReadsMonotone := by
  refine ⟨fun s => ⟨rfl, rfl⟩, fun s c => ⟨readCounter_reaches, ?_⟩, fun s t h => (step_program_cntLast h).2⟩
  rintro ⟨env, rfl⟩
  exact le_readCounter { s with env := env }

/-! ### One framer step of `wait_for_tlp` -/

/-- How many framer steps of `wait_for_tlp` lead from a state to the next deadline check, at most (R180). -/
def waitRank : Fsm → Nat
  | .idle | .wInit | .wOvf => 1
  | .wApp => 2
  | .wLo => 3
  | .wUp => 4
  | .wSt => 5
  | .wRdy | .wEop => 6
  | _ => 0

/-- A turn of agent `a` that does not end a `wait_for_tlp` call. -/
inductive WaitTurn (deadline : Nat) (a : Agent) (s t : State) : Prop where
  /-- The framer reads a counter value that is not past the deadline (R183, R190, R192). -/
  | reads (c : Nat) (notPast : c ≤ deadline) (hp : t.hp = s.hp) (trace : t.trace = s.trace ++ [.cntRd c])
  /-- The framer comes nearer to a deadline check. -/
  | nears (hp : t.hp = s.hp) (unread : Unread s t) (rank : waitRank t.fsm < waitRank s.fsm)
  /-- A link leaves the framer where it stands. -/
  | stands (link : a ≠ .framer) (hp : t.hp = s.hp) (unread : Unread s t) (fsm : t.fsm = s.fsm)

/-- A turn of agent `a` in a `wait_for_tlp` call: the call ends (R271; log 34), or it stays in progress. -/
def WaitProceeds (deadline : Nat) (a : Agent) (s t : State) : Prop := callEnded s t ∨ WaitTurn deadline a s t

namespace WaitProceeds

variable {deadline : Nat} {a : Agent} {s t : State}

/-- Where draws come from is outside the call. -/
theorem ofEnv {env : Env} : WaitProceeds deadline a { s with env := env } t → WaitProceeds deadline a s t
  | .inl ended => .inl ended
  | .inr (.reads c notPast hp trace) => .inr (.reads c notPast hp trace)
  | .inr (.nears hp unread rank) => .inr (.nears hp unread rank)
  | .inr (.stands link hp unread fsm) => .inr (.stands link hp unread fsm)

theorem raise (c : FaultCode) : WaitProceeds deadline a s (t.raise c) := .inl (.inr (.inl rfl))

theorem refuse (r : RefuseReason) : WaitProceeds deadline a s (t.refuse r) := .inl (.inr (.inr rfl))

theorem finish {op : BitVec 8} {v : Result} (hp : t.hp = s.hp) : WaitProceeds deadline a s (t.finish op v) :=
  .inl (.inl ⟨rfl, congrArg (· + 1) hp, rfl⟩)

/-- A framer step without an event, to a state nearer to a deadline check. -/
theorem silent (hp : t.hp = s.hp) (trace : t.trace = s.trace) (rank : waitRank t.fsm < waitRank s.fsm) :
    WaitProceeds deadline a s t := .inr (.nears hp ⟨[], by simp [trace]⟩ rank)

/-- A bus read faults, or goes on to what follows it, which is nearer to a deadline check. -/
theorem busRead {r : Reg} {rest : Word → State → State} (rank : ∀ v t, waitRank (rest v t).fsm < waitRank s.fsm)
    (hp : ∀ v t, (rest v t).hp = t.hp := by intros; rfl)
    (trace : ∀ v t, (rest v t).trace = t.trace := by intros; rfl) :
    WaitProceeds deadline a s (onBusRead r s rest) := by
  rcases onBusRead_cases r s rest with ⟨c, -, h⟩ | ⟨v, t, hread, h⟩ <;> rw [h]
  · exact raise c
  · obtain ⟨rxf, rfl⟩ := deviceRead_eq hread
    exact .inr (.nears (hp ..) ⟨[.busRd r v], trace .., by simp⟩ (rank ..))

theorem waitInit {b : Buffer} {cap : Nat} (hf : s.fsm = .idle ∨ s.fsm = .wInit) :
    WaitProceeds deadline a s (waitInit b cap s) := by
  unfold Machine.waitInit
  split
  · exact refuse _
  · exact silent rfl rfl (by rcases hf with hf | hf <;> simp [hf, waitRank])

/-- A deadline check returns, or the value it read is not past the deadline (R192). -/
theorem waitDeadline (next : Fsm) : WaitProceeds deadline a s (waitDeadline deadline next s) := by
  obtain ⟨c, env, hread, -⟩ := readCounter_spec s
  obtain ⟨past, env', hpast, -, habove⟩ := past_spec s.readCounter.2 c deadline
  rw [hread] at hpast
  rw [waitDeadline_eq hread hpast]
  split
  · exact finish rfl
  next hgoes => exact .inr (.reads c (Nat.le_of_not_lt fun h => hgoes (habove h)) rfl rfl)

theorem waitAppend {b : Buffer} {cursor : Nat} {st up lo : Word} (hf : s.fsm = .wApp) :
    WaitProceeds deadline a s (waitAppend b cursor st up lo s) := by
  unfold Machine.waitAppend
  dsimp only
  split
  · exact raise _
  · split
    · exact raise _
    · exact silent rfl rfl (by simp [hf, waitRank])

theorem waitOverflow {cap cursor : Nat} (hf : s.fsm = .wOvf) :
    WaitProceeds deadline a s (waitOverflow cap cursor s) := by
  unfold Machine.waitOverflow
  split
  · exact finish rfl
  · exact silent rfl rfl (by simp [hf, waitRank])

theorem waitEop {cursor : Nat} {st : Word} (hf : s.fsm = .wEop) :
    WaitProceeds deadline a s (waitEop cursor st s) := by
  unfold Machine.waitEop
  split
  · exact finish rfl
  · exact silent rfl rfl (by simp [hf, waitRank])

theorem exec {b : Buffer} {cap : Nat} (h : exec (.callWaitForTlp b cap deadline) s = .next t) :
    WaitProceeds deadline a s t := by
  change execCallWaitForTlp b cap deadline s = .next t at h
  unfold execCallWaitForTlp at h
  split at h
  next hf => cases h; exact waitInit (.inl hf)
  next hf => cases h; exact waitInit (.inr hf)
  next => cases h; exact waitDeadline _
  next hf =>
    cases h
    exact busRead fun _ _ => by
      rw [goto_fsm, hf]
      split <;> decide
  next hf => cases h; exact busRead fun _ _ => by simp [hf, waitRank]
  next hf => cases h; exact busRead fun _ _ => by simp [hf, waitRank]
  next hf => cases h; exact busRead fun _ _ => by simp [hf, waitRank]
  next hf =>
    obtain ⟨_, -, h⟩ := readWork_next h
    obtain ⟨_, -, h⟩ := readWork_next h
    obtain ⟨_, -, h⟩ := readWork_next h
    obtain ⟨_, -, h⟩ := readWork_next h
    cases h
    exact waitAppend hf
  next hf =>
    obtain ⟨_, -, h⟩ := readWork_next h
    cases h
    exact waitOverflow hf
  next => cases h; exact waitDeadline _
  next hf =>
    obtain ⟨_, -, h⟩ := readWork_next h
    obtain ⟨_, -, h⟩ := readWork_next h
    cases h
    exact waitEop hf
  next => cases h

/-- One step of the machine in the call, whichever agent takes it. -/
theorem step {b : Buffer} {cap : Nat} (hs : s.fetch = .op (.callWaitForTlp b cap deadline))
    (h : step s = .next t) : WaitProceeds deadline s.nextTurn.1 s t := by
  refine ofEnv (env := s.nextTurn.2.env) ?_
  rcases step_framer_or_link h with ⟨-, hframer⟩ | ⟨hturn, link⟩
  · rw [framerStep_op (s := s.nextTurn.2) hs] at hframer
    exact exec hframer
  · exact .inr (.stands hturn link.hp link.unread link.fsm)

end WaitProceeds

theorem WaitTurn.hp_eq {deadline : Nat} {a : Agent} {s t : State} : WaitTurn deadline a s t → t.hp = s.hp
  | .reads _ _ hp _ | .nears hp _ _ | .stands _ hp _ _ => hp

/-! ### A call that never ends -/

/-- A run whose call at `hp` of its first state never ends. -/
def NeverEnds (r : Nat → State) : Prop := ∀ k, ¬ callEnded (r 0) (r k)

section run

variable {r : Nat → State} {draws : Nat → Env} {b : Buffer} {cap deadline : Nat}

theorem NeverEnds.waitTurn_of_fetch (hopen : NeverEnds r) (hrun : IsRun r draws) {k : Nat}
    (hfetch : (r k).fetch = .op (.callWaitForTlp b cap deadline)) (hhp : (r k).hp = (r 0).hp) :
    WaitTurn deadline ({ r k with env := draws k } : State).nextTurn.1 (r k) (r (k + 1)) := by
  have proceeds := (WaitProceeds.step (s := { r k with env := draws k }) hfetch (hrun k)).ofEnv
  refine proceeds.resolve_left fun ended => ?_
  rw [callEnded, hhp] at ended
  exact hopen (k + 1) ended

/-- In such a run the call is in progress at every state. -/
theorem NeverEnds.fetch_hp (hopen : NeverEnds r) (hrun : IsRun r draws)
    (h0 : (r 0).fetch = .op (.callWaitForTlp b cap deadline)) (k : Nat) :
    (r k).fetch = .op (.callWaitForTlp b cap deadline) ∧ (r k).hp = (r 0).hp := by
  induction k with
  | zero => exact ⟨h0, rfl⟩
  | succ k ih =>
    obtain ⟨hfetch, hhp⟩ := ih
    have hp := (hopen.waitTurn_of_fetch hrun hfetch hhp).hp_eq
    have hprogram := (step_program_cntLast (hrun k)).1
    have hfaulted : (r (k + 1)).fsm ≠ .faulted := fun h => hopen (k + 1) (.inr (.inl h))
    have hrefused : (r (k + 1)).fsm ≠ .refused := fun h => hopen (k + 1) (.inr (.inr h))
    obtain ⟨-, -, hraw⟩ := fetch_op hfetch
    exact ⟨fetch_eq_op_iff.2 ⟨hfaulted, hrefused, by rw [hprogram, hp]; exact hraw⟩, hp.trans hhp⟩

theorem NeverEnds.waitTurn (hopen : NeverEnds r) (hrun : IsRun r draws)
    (h0 : (r 0).fetch = .op (.callWaitForTlp b cap deadline)) (k : Nat) :
    WaitTurn deadline ({ r k with env := draws k } : State).nextTurn.1 (r k) (r (k + 1)) :=
  hopen.waitTurn_of_fetch hrun (hopen.fetch_hp hrun h0 k).1 (hopen.fetch_hp hrun h0 k).2

variable {agent : Nat → Agent} (hturn : ∀ k, WaitTurn deadline (agent k) (r k) (r (k + 1)))
include hturn

/-- No value past the deadline is read (R192). -/
theorem le_deadline_of_readsCounterAt {k c : Nat} (h : readsCounterAt r k c) : c ≤ deadline := by
  obtain ⟨es, hes, hmem⟩ := h
  have events : ∀ es', (r (k + 1)).trace = (r k).trace ++ es' → Event.cntRd c ∈ es' := fun es' h' =>
    List.append_cancel_left (hes.symm.trans h') ▸ hmem
  cases hturn k with
  | reads c' notPast hp trace =>
    obtain rfl : c = c' := by simpa using events _ trace
    exact notPast
  | nears hp unread rank | stands link hp unread fsm =>
    obtain ⟨es', hes', hno⟩ := unread
    exact absurd (events es' hes') (hno c)

/-- Without a counter read the framer does not move away from the next deadline check. -/
theorem readsCounter_or_waitRank_le {k j : Nat} (hkj : k ≤ j) :
    (∃ i c, k ≤ i ∧ readsCounterAt r i c) ∨ waitRank (r j).fsm ≤ waitRank (r k).fsm := by
  induction j, hkj using Nat.le_induction with
  | base => exact .inr le_rfl
  | succ j hkj ih =>
    rcases ih with hread | hle
    · exact .inl hread
    · cases hturn j with
      | reads c notPast hp trace => exact .inl ⟨j, c, hkj, _, trace, by simp⟩
      | nears hp unread rank => exact .inr (rank.le.trans hle)
      | stands link hp unread fsm => exact .inr (fsm ▸ hle)

/-- Where the framer's turns never cease, the counter is read again and again: each turn reads it or comes nearer to
a read. -/
theorem exists_readsCounterAt (hfair : ∀ k, ∃ j, k ≤ j ∧ agent j = .framer) (k : Nat) :
    ∃ j c, k ≤ j ∧ readsCounterAt r j c := by
  induction hn : waitRank (r k).fsm using Nat.strong_induction_on generalizing k with
  | _ n ih =>
    obtain ⟨j, hkj, hframer⟩ := hfair k
    rcases readsCounter_or_waitRank_le hturn hkj with hread | hle
    · exact hread
    · cases hturn j with
      | reads c notPast hp trace => exact ⟨j, c, hkj, _, trace, by simp⟩
      | nears hp unread rank =>
        obtain ⟨i, c, hji, hread⟩ := ih _ (hn ▸ rank.trans_le hle) (j + 1) rfl
        exact ⟨i, c, by omega, hread⟩
      | stands link hp unread fsm => exact absurd hframer link

end run

/-- Settles O59: a call that never ends reads the counter again and again, never past its deadline, which a counter
without bound refutes. -/
theorem waitEndsUnderFairCounter : Obligations.WaitEndsUnderFairCounter := by
  intro r draws b cap deadline hrun hturns hcounter _ h0
  by_contra hnone
  have hturn := NeverEnds.waitTurn (not_exists.1 hnone) hrun h0
  obtain ⟨j, c, hpast, hread⟩ := hcounter (exists_readsCounterAt hturn hturns) deadline
  exact Nat.not_le_of_gt hpast (le_deadline_of_readsCounterAt hturn hread)

end Sys2Proof.Machine
end

section
/-! The launch (R320): the caller buffers' bytes, the configuration's verdict, and the statements O51 and O52 that they
settle. -/

namespace Sys2Proof.Machine

/-! ### The caller buffers -/

theorem Memory.ofCells_concat (cells : List Host.Cell) (c : Host.Cell) :
    Memory.ofCells (cells ++ [c]) = (Memory.ofCells cells).write c.1 c.2 :=
  List.foldl_concat ..

/-- Where no address is listed twice, a listed byte is read back (R46): no later cell overwrites it. -/
theorem Memory.read_ofCells {cells : List Host.Cell} (hnodup : (cells.map Prod.fst).Nodup) {c : Host.Cell}
    (hc : c ∈ cells) : (Memory.ofCells cells).read c.1 = c.2 := by
  induction cells using List.reverseRecOn with
  | nil => cases hc
  | append_singleton cells d ih =>
    rw [List.map_append, List.map_singleton, List.nodup_append] at hnodup
    obtain ⟨hnodup, -, hdistinct⟩ := hnodup
    rw [Memory.ofCells_concat, Memory.read_write (Memory.wf_ofCells cells)]
    rcases List.mem_append.1 hc with hc | hc
    · have hne : c.1 ≠ d.1 := hdistinct _ (List.mem_map_of_mem hc) _ (by simp)
      rw [if_neg hne, ih hnodup hc]
    · obtain rfl := List.mem_singleton.1 hc
      rw [if_pos rfl]

/-! ### The configuration's verdict -/

section verdict

variable {l : Launch}

theorem launch_idle_of_wf (h : l.cfg.wf) : (State.launch l).fsm = .idle ∧ (State.launch l).refused = none :=
  ⟨if_pos h, if_pos h⟩

theorem launch_refused_of_not_wf (h : ¬ l.cfg.wf) :
    (State.launch l).fsm = .refused ∧ (State.launch l).refused = some .config :=
  ⟨if_neg h, if_neg h⟩

theorem launch_stream_of_loopback (h : l.loopback = true) :
    (State.launch l).rxStream = [] ∧ (State.launch l).rxEndless = false := by
  simp [State.launch, h]

theorem launch_stream_of_not_loopback (h : l.loopback = false) :
    (State.launch l).rxStream = l.rxStream ∧ (State.launch l).rxEndless = l.rxEndless := by
  simp [State.launch, h]

end verdict

/-- Settles O51: the verdict on the configuration, FIFOs that fit kept whole, the stream of a run without loopback and
the buffers' bytes; the rest is the launch's own. -/
theorem launchState : Obligations.LaunchState := fun _ =>
  ⟨launch_idle_of_wf, launch_refused_of_not_wf, rfl, rfl, List.take_of_length_le, List.take_of_length_le,
    rfl, rfl, rfl, launch_stream_of_not_loopback, rfl, fun hnodup _ hc => Memory.read_ofCells hnodup hc, rfl, rfl⟩

/-! ### The invariant -/

/-- The control position and the marks of a launch agree, under either verdict. -/
theorem launch_control (l : Launch) :
    (l.cfg.wf ∨ (State.launch l).fsm = .refused) ∧ (State.launch l).fsm ≠ .faulted ∧
      ((State.launch l).fsm = .refused ↔ (State.launch l).refused ≠ none) ∧ (State.launch l).controlOk = true := by
  by_cases hwf : l.cfg.wf
  · obtain ⟨fsm, refused⟩ := launch_idle_of_wf hwf
    exact ⟨.inl hwf, by simp [fsm], by simp [fsm, refused], controlOk_of_halted (.inl fsm)⟩
  · obtain ⟨fsm, refused⟩ := launch_refused_of_not_wf hwf
    exact ⟨.inr fsm, by simp [fsm], by simp [fsm, refused], controlOk_of_halted (.inr (.inr fsm))⟩

theorem State.Inv.launch (l : Launch) : (State.launch l).Inv := by
  obtain ⟨configured, hfaulted, refuseMark, control⟩ := launch_control l
  exact
    { configured, refuseMark, control
      memWf := Memory.wf_ofCells l.cells
      rxFits := List.length_take_le ..
      txFits := List.length_take_le ..
      faultMark := iff_of_false hfaulted (· rfl)
      hpBound := Nat.zero_le _
      idleWork := fun _ => rfl
      cursorAligned := nofun
      loopbackStream := launch_stream_of_loopback }

/-- Settles O52: reset is itself a launch. -/
theorem launchMeetsInvariant : Obligations.LaunchMeetsInvariant :=
  ⟨reset_eq_launch ▸ .launch _, .launch⟩

end Sys2Proof.Machine
end
